-- ==== Sys2Proof/Word.lean ====
section
/-! DEFINITION. The word types of the capture-to-stream block (00_scope R8, R13). -/

namespace Sys2Proof

/-- One byte of a byte space (20_memory R41). -/
abbrev Byte := BitVec 8

/-- A 16-bit field: a telemetry value, a length, a packet-type word (00_scope R8). -/
abbrev Half := BitVec 16

/-- A 32-bit word: an operation word, the CRC register, a REG value (00_scope R8, 30_encoding R64). -/
abbrev Word := BitVec 32

end Sys2Proof
end

