-- ==== Sys2Proof/Config.lean ====
section
/-! DEFINITION. The parameters of 00_scope R7 and the free values: what the spec leaves OPEN, and what the
environment decides. A constant without a body (opaque) has no value a proof could use. -/

namespace Sys2Proof

/-- A turn that a correct environment can give: a word on the control port, a word on the capture port, or a
step of the framer (00_scope R10, R12; script prefixes `H:`, `P:`, `F:` of 30_encoding R79). -/
inductive AgentTurn where
  | control (w : Word)
  | capture (w : Word)
  | framer
deriving DecidableEq, Repr, Inhabited

/-- `HDR_LEN`, derived from the field widths (20_memory R47). -/
def Config.hdrLen : Nat := 4 + 5 * 2 + 2 + 2 + 2

/-- `TRAILER_LEN` (00_scope R7). -/
def Config.trailerLen : Nat := 4

/-- The parameters of 00_scope R7 that have a reference value as default (D3, D7): the named arguments of the model.
State carries them and no step writes them (entry 11). -/
structure Params where
  /-- `K`, cycles of a framer block. -/
  k : Nat
  /-- `WIN_LO`, the line-detection window's strict lower bound. -/
  winLo : Nat
  /-- `WIN_HI`, the line-detection window's strict upper bound. -/
  winHi : Nat
  /-- `SPAN`, the bytes the integrity code covers. -/
  span : Nat
  /-- `STALL_MAX`, the stall-count threshold. -/
  stallMax : Nat
  /-- `STALL_SLEEP_US`: timing only, read by no rule of the model (70_reset_and_hazards R222). -/
  stallSleepUs : Nat
  /-- `PROTO_VERSION` (R9). -/
  protoVersion : BitVec 5
deriving DecidableEq, Repr, Inhabited

/-- The reference values, 00_scope R7. -/
def Params.reference : Params :=
  { k := 10, winLo := 500, winHi := 2000, span := 508, stallMax := 100, stallSleepUs := 500, protoVersion := 1#5 }

/-- `TAKE_CYCLES = K - 2` (00_scope R7). -/
def Params.takeCycles (p : Params) : Nat := p.k - 2

/-- `PAYLOAD_MAX = SPAN - HDR_LEN` (00_scope R7, 20_memory R47). -/
def Params.payloadMax (p : Params) : Nat := p.span - Config.hdrLen

/-- `PKT_LEN = SPAN + TRAILER_LEN` (00_scope R7). -/
def Params.pktLen (p : Params) : Nat := p.span + Config.trailerLen

/-- The constraints of 00_scope R7 ("Constraints: ..."); the one on NSLOTS stands with the ring. -/
abbrev Params.ok (p : Params) : Prop :=
  3 ≤ p.k ∧ p.winLo < p.winHi ∧ p.winHi ≤ 32767 ∧ Config.hdrLen < p.span ∧ p.payloadMax ≤ 65535
    ∧ p.stallMax < 2 ^ 32 - 1

/-- The slots beyond the two that NSLOTS has at least: OPEN in the spec (D4), so a free value (entry 4). -/
opaque Config.nslotsOverTwo : Nat

/-- `NSLOTS`: OPEN, at least 2 (00_scope R7, D4; entry 4). -/
def Config.nslots : Nat := Config.nslotsOverTwo + 2

/-- `IDLE_US_RESET`: OPEN, below 2^24 (00_scope R7, D6; entry 5). -/
opaque Config.idleUsReset : BitVec 24

/-- Which agent moves at the n-th turn that State lists none for: "which goes next is unconstrained"
(60_exceptions R185; entry 1). -/
opaque Config.freeTurn : Nat → AgentTurn

/-- The measurement port's n-th answer that State lists none for: a 16-bit value, or none for Error
(43_framer R122, 60_exceptions R190; entry 3). -/
opaque Config.freeMeas : Nat → Option Half

/-- The transport's n-th answer that State lists none for, before it is brought into the range of what was
offered (43_framer R126, 60_exceptions R190; entry 3). -/
opaque Config.freeTx : Nat → Nat

/-- What the REG register of an index reads when the count it shows is 2^32 or more. REG values are 32 bits
(30_encoding R74) and 00_scope R7 puts no upper bound on NSLOTS or K, so the spec states no value: a free value
(entry 17). It is the same at every read of the same count (44_control R158). -/
opaque Config.wideCount : BitVec 8 → Nat → Word

end Sys2Proof
end

