-- ==== Sys2Proof/Syntax.lean ====
section
/-! DEFINITION. The instructions: one constructor per row of spec/opcode_table.json, and the operand types. -/

namespace Sys2Proof

/-- A bus line (00_scope R16, 30_encoding R67: 0 is A, 1 is B). -/
inductive Line where
  | a
  | b
deriving DecidableEq, Repr, Inhabited

/-- The line selection `S.line_sel` (10_state R36, 30_encoding R67). -/
inductive LineSel where
  | none
  | a
  | b
  | both
deriving DecidableEq, Repr, Inhabited

/-- The device's role (10_state R36, 30_encoding R67: 0 is sink, 1 is source). -/
inductive Role where
  | sink
  | source
deriving DecidableEq, Repr, Inhabited

/-- The operations of 30_encoding R69 and the framer phases of R76. -/
inductive Instr where
  /-- `start(bool)` (44_control R151). -/
  | ctlStart (run : Bool)
  /-- `reset()` (44_control R152). -/
  | ctlReset
  /-- select-line (44_control R153). -/
  | ctlSetLine (sel : LineSel)
  /-- select-role (44_control R154). -/
  | ctlSetRole (role : Role) (pull : BitVec 2)
  /-- output-mode: true is on-capture-only (44_control R155). -/
  | ctlSetOutmode (onCapture : Bool)
  /-- auto-stop (44_control R156). -/
  | ctlSetAutostop (on : Bool)
  /-- idle-cadence in microseconds (44_control R157). -/
  | ctlSetIdle (us : BitVec 24)
  /-- the getters (44_control R158). -/
  | ctlRead (idx : BitVec 8)
  /-- one byte landed by the capture path (42_producer R100). -/
  | capByte (b : Byte)
  /-- receive message complete (42_producer R102). -/
  | evRxComplete (ty : BitVec 8)
  /-- receive error / line fault (42_producer R103). -/
  | evRxError (ty : BitVec 8)
  /-- `try_put`, with its side-band bytes D (41_ring R88). -/
  | ringPut (line : Line) (ty : BitVec 8) (part : Bool) (data : List Byte)
  /-- `try_take` (41_ring R89). -/
  | ringTake
  /-- `init()` (40_crc R83). -/
  | crcInit
  /-- `hash(bytes)`, with its side-band bytes D (40_crc R84). -/
  | crcHash (data : List Byte)
  /-- `result()` (40_crc R85). -/
  | crcResult
  /-- phase 0 (43_framer R120). -/
  | phaseStopped
  /-- phase 1 (43_framer R121). -/
  | phaseCycleStart
  /-- phase 2 (43_framer R122). -/
  | phaseTelem
  /-- phase 3 (43_framer R123). -/
  | phaseAssemble
  /-- phase 4 (43_framer R124). -/
  | phaseSeal
  /-- phase 5 (43_framer R125). -/
  | phaseTxDecide
  /-- phase 6 (43_framer R126). -/
  | phaseTxWrite
  /-- phase 7 (43_framer R128). -/
  | phaseTxSleep
  /-- phase 8 (43_framer R127). -/
  | phaseClear
  /-- phase 9 (43_framer R129). -/
  | phaseIdleSleep
deriving DecidableEq, Repr, Inhabited

end Sys2Proof
end

