-- ==== Sys2Proof/WellFormed.lean ====
section
/-! DEFINITION. What an instruction's operands must satisfy beyond their types (30_encoding R66, R71). -/

namespace Sys2Proof

/-- The two operand checks of 30_encoding R66 and R71: a sink takes no pull strength, and RING_PUT carries at
most PAYLOAD_MAX bytes. Every other operand is in range by its type. -/
def Instr.wellFormed (i : Instr) (p : Params) : Bool :=
  match i with
  | .ctlStart _ => true
  | .ctlReset => true
  | .ctlSetLine _ => true
  | .ctlSetRole role pull => role == .source || pull == 0#2
  | .ctlSetOutmode _ => true
  | .ctlSetAutostop _ => true
  | .ctlSetIdle _ => true
  | .ctlRead _ => true
  | .capByte _ => true
  | .evRxComplete _ => true
  | .evRxError _ => true
  | .ringPut _ _ _ data => data.length ≤ p.payloadMax
  | .ringTake => true
  | .crcInit => true
  | .crcHash _ => true
  | .crcResult => true
  | .phaseStopped => true
  | .phaseCycleStart => true
  | .phaseTelem => true
  | .phaseAssemble => true
  | .phaseSeal => true
  | .phaseTxDecide => true
  | .phaseTxWrite => true
  | .phaseTxSleep => true
  | .phaseClear => true
  | .phaseIdleSleep => true

end Sys2Proof
end

