-- ==== Sys2Proof/Decode.lean ====
section
/-! DEFINITION. The decoder of operation words and phase codes, total and rejecting by name, and after it the
encoder, both from the formats of 30_encoding R64 to R76. -/

namespace Sys2Proof

/-- Why a word is not an operation (30_encoding R71). -/
inductive DecodeError where
  /-- the opcode byte names no operation that this port accepts. -/
  | illegalOpcode
  /-- a reserved bit is 1, or a sink role carries a pull strength. -/
  | reservedField
deriving DecidableEq, Repr, Inhabited

/-- Where a word arrives: the control port, the capture port, or issued as an internal operation
(30_encoding R65). -/
inductive Port where
  | control
  | capture
  | internal
deriving DecidableEq, Repr, Inhabited

/-- The 16 operations of the opcode map, 30_encoding R69. -/
inductive Op where
  | ctlStart | ctlReset | ctlSetLine | ctlSetRole | ctlSetOutmode | ctlSetAutostop | ctlSetIdle | ctlRead
  | capByte | evRxComplete | evRxError
  | ringPut | ringTake | crcInit | crcHash | crcResult
deriving DecidableEq, Repr, Inhabited

/-- One row of the opcode map: the opcode byte, the port that accepts it and the bits that must be 0. -/
structure OpRow where
  op : Op
  opcode : BitVec 8
  port : Port
  reserved : Word
deriving DecidableEq, Repr

/-- The opcode map: 30_encoding R66 (reserved bits), R69 (opcodes), R65 (ports). -/
def opTable : List OpRow :=
  [ ⟨.ctlStart, 0x01#8, .control, 0xFFFFFE00#32⟩,
    ⟨.ctlReset, 0x02#8, .control, 0xFFFFFF00#32⟩,
    ⟨.ctlSetLine, 0x03#8, .control, 0xFFFFFC00#32⟩,
    ⟨.ctlSetRole, 0x04#8, .control, 0xFFFFF800#32⟩,
    ⟨.ctlSetOutmode, 0x05#8, .control, 0xFFFFFE00#32⟩,
    ⟨.ctlSetAutostop, 0x06#8, .control, 0xFFFFFE00#32⟩,
    ⟨.ctlSetIdle, 0x07#8, .control, 0x00000000#32⟩,
    ⟨.ctlRead, 0x08#8, .control, 0xFFFF0000#32⟩,
    ⟨.capByte, 0x10#8, .capture, 0xFFFF0000#32⟩,
    ⟨.evRxComplete, 0x11#8, .capture, 0xFFFF0000#32⟩,
    ⟨.evRxError, 0x12#8, .capture, 0xFFFF0000#32⟩,
    ⟨.ringPut, 0x20#8, .internal, 0xFF00FC00#32⟩,
    ⟨.ringTake, 0x21#8, .internal, 0xFFFFFF00#32⟩,
    ⟨.crcInit, 0x30#8, .internal, 0xFFFFFF00#32⟩,
    ⟨.crcHash, 0x31#8, .internal, 0xFFFFFF00#32⟩,
    ⟨.crcResult, 0x32#8, .internal, 0xFFFFFF00#32⟩ ]

/-- The opcode byte, bits [7:0] of a word (30_encoding R64). -/
def opcodeOf (w : Word) : BitVec 8 := w.extractLsb' 0 8

/-- The row a word's opcode byte selects (30_encoding R68). -/
def rowOf (w : Word) : Option OpRow := opTable.find? (fun row => row.opcode == opcodeOf w)

/-- Line of a bit (30_encoding R67). -/
def lineOfBit : Bool → Line
  | false => .a
  | true => .b

/-- Role of a bit (30_encoding R67). -/
def roleOfBit : Bool → Role
  | false => .sink
  | true => .source

/-- Line selection of two bits: 0 none, 1 A, 2 B, 3 both (30_encoding R67). -/
def lineSelOfBits (v : BitVec 2) : LineSel :=
  if v = 0#2 then .none else if v = 1#2 then .a else if v = 2#2 then .b else .both

/-- Operand assembly, 30_encoding R67: every field an unsigned bit field of the word. -/
def operands (op : Op) (w : Word) (d : List Byte) : Instr :=
  match op with
  | .ctlStart => .ctlStart (w.getLsbD 8)
  | .ctlReset => .ctlReset
  | .ctlSetLine => .ctlSetLine (lineSelOfBits (w.extractLsb' 8 2))
  | .ctlSetRole => .ctlSetRole (roleOfBit (w.getLsbD 8)) (w.extractLsb' 9 2)
  | .ctlSetOutmode => .ctlSetOutmode (w.getLsbD 8)
  | .ctlSetAutostop => .ctlSetAutostop (w.getLsbD 8)
  | .ctlSetIdle => .ctlSetIdle (w.extractLsb' 8 24)
  | .ctlRead => .ctlRead (w.extractLsb' 8 8)
  | .capByte => .capByte (w.extractLsb' 8 8)
  | .evRxComplete => .evRxComplete (w.extractLsb' 8 8)
  | .evRxError => .evRxError (w.extractLsb' 8 8)
  | .ringPut => .ringPut (lineOfBit (w.getLsbD 8)) (w.extractLsb' 16 8) (w.getLsbD 9) d
  | .ringTake => .ringTake
  | .crcInit => .crcInit
  | .crcHash => .crcHash d
  | .crcResult => .crcResult

/-- CTL_SET_ROLE with role = sink and a nonzero pull strength: the check 30_encoding R66 and R71 put beside the
reserved bits. -/
def sinkWithPull : Instr → Bool
  | .ctlSetRole .sink pull => pull != 0#2
  | _ => false

/-- Decoding of a word that arrives at a port with side-band bytes d: the opcode byte alone selects the operation
(30_encoding R68), a port accepts its own unit only (R65, R71), then the reserved bits are checked, then the
sink/pull check (60_exceptions R183). -/
def decodeAt (p : Port) (w : Word) (d : List Byte) : Except DecodeError Instr :=
  match rowOf w with
  | none => .error .illegalOpcode
  | some row =>
    if row.port ≠ p then .error .illegalOpcode
    else if w &&& row.reserved ≠ 0#32 then .error .reservedField
    else if sinkWithPull (operands row.op w d) then .error .reservedField
    else .ok (operands row.op w d)

/-- Decoding of a phase code, 30_encoding R76; codes 10 to 15 name no phase. -/
def decodePhase (c : BitVec 4) : Option Instr :=
  if c = 0#4 then some .phaseStopped
  else if c = 1#4 then some .phaseCycleStart
  else if c = 2#4 then some .phaseTelem
  else if c = 3#4 then some .phaseAssemble
  else if c = 4#4 then some .phaseSeal
  else if c = 5#4 then some .phaseTxDecide
  else if c = 6#4 then some .phaseTxWrite
  else if c = 7#4 then some .phaseTxSleep
  else if c = 8#4 then some .phaseClear
  else if c = 9#4 then some .phaseIdleSleep
  else none

/-! ### The encoder -/

/-- What names an instruction: an operation word at its port, with its side-band bytes, or a phase code. -/
inductive Encoded where
  | word (p : Port) (w : Word) (d : List Byte)
  | phase (c : BitVec 4)
deriving DecidableEq, Repr, Inhabited

/-- Line as a bit (30_encoding R67). -/
def lineBit : Line → Bool
  | .a => false
  | .b => true

/-- Role as a bit (30_encoding R67). -/
def roleBit : Role → Bool
  | .sink => false
  | .source => true

/-- Line selection as two bits, which is also the mask of the port events (30_encoding R67, 10_state R37). -/
def lineSelBits : LineSel → BitVec 2
  | .none => 0#2
  | .a => 1#2
  | .b => 2#2
  | .both => 3#2

/-- A word from its 24 operand bits and its opcode byte (30_encoding R64). -/
def wordOf (operand : BitVec 24) (opcode : BitVec 8) : Word := operand ++ opcode

/-- One bit as a field. -/
def bit (b : Bool) : BitVec 1 := BitVec.ofBool b

/-- The encoding of an instruction: format tables of 30_encoding R66, most significant field first; phase codes of
R76. -/
def encode : Instr → Encoded
  | .ctlStart run => .word .control (wordOf (0#23 ++ bit run) 0x01#8) []
  | .ctlReset => .word .control (wordOf 0#24 0x02#8) []
  | .ctlSetLine sel => .word .control (wordOf (0#22 ++ lineSelBits sel) 0x03#8) []
  | .ctlSetRole role pull => .word .control (wordOf (0#21 ++ pull ++ bit (roleBit role)) 0x04#8) []
  | .ctlSetOutmode onCapture => .word .control (wordOf (0#23 ++ bit onCapture) 0x05#8) []
  | .ctlSetAutostop on => .word .control (wordOf (0#23 ++ bit on) 0x06#8) []
  | .ctlSetIdle us => .word .control (wordOf us 0x07#8) []
  | .ctlRead idx => .word .control (wordOf (0#16 ++ idx) 0x08#8) []
  | .capByte b => .word .capture (wordOf (0#16 ++ b) 0x10#8) []
  | .evRxComplete ty => .word .capture (wordOf (0#16 ++ ty) 0x11#8) []
  | .evRxError ty => .word .capture (wordOf (0#16 ++ ty) 0x12#8) []
  | .ringPut line ty part data =>
    .word .internal (wordOf (0#8 ++ ty ++ 0#6 ++ bit part ++ bit (lineBit line)) 0x20#8) data
  | .ringTake => .word .internal (wordOf 0#24 0x21#8) []
  | .crcInit => .word .internal (wordOf 0#24 0x30#8) []
  | .crcHash data => .word .internal (wordOf 0#24 0x31#8) data
  | .crcResult => .word .internal (wordOf 0#24 0x32#8) []
  | .phaseStopped => .phase 0#4
  | .phaseCycleStart => .phase 1#4
  | .phaseTelem => .phase 2#4
  | .phaseAssemble => .phase 3#4
  | .phaseSeal => .phase 4#4
  | .phaseTxDecide => .phase 5#4
  | .phaseTxWrite => .phase 6#4
  | .phaseTxSleep => .phase 7#4
  | .phaseClear => .phase 8#4
  | .phaseIdleSleep => .phase 9#4

/-- The instruction an encoding names, if any. -/
def decode : Encoded → Option Instr
  | .word p w d =>
    match decodeAt p w d with
    | .ok i => some i
    | .error _ => none
  | .phase c => decodePhase c

/-- The port of the unit a word belongs to, bits [7:4]: 0 control, 1 capture, every other unit internal
(30_encoding R64, R65). -/
def portOfUnit (w : Word) : Port :=
  if w.extractLsb' 4 4 = 0#4 then .control
  else if w.extractLsb' 4 4 = 1#4 then .capture
  else .internal

/-- Whether a word of the opcode table is a phase code: at most 8 bits wide and below 16 (entry 13). -/
def isPhaseWord (nbits w : Nat) : Bool := nbits ≤ 8 && w < 16

/-- What a word of the opcode table names: a phase code, or a 32-bit word at its unit's port (entry 13). -/
def tableWord (nbits w : Nat) : Encoded :=
  if isPhaseWord nbits w then .phase (BitVec.ofNat 4 w)
  else .word (portOfUnit (BitVec.ofNat 32 w)) (BitVec.ofNat 32 w) []

/-- The instruction the decoder reads from a word of the opcode table. -/
def decodeTableWord (nbits w : Nat) : Option Instr := decode (tableWord nbits w)

/-! ### Pseudo-operations -/

/-- The pseudo-operations of 30_encoding R78. -/
inductive Pseudo where
  | start
  | stop
  | capmsg (ty : BitVec 8) (bytes : List Byte)
  | caperr (ty : BitVec 8) (bytes : List Byte)
  | crc32 (bytes : List Byte)
deriving DecidableEq, Repr

/-- Their expansions (30_encoding R78). -/
def expandPseudo : Pseudo → List Instr
  | .start => [.ctlStart true]
  | .stop => [.ctlStart false]
  | .capmsg ty bytes => bytes.map .capByte ++ [.evRxComplete ty]
  | .caperr ty bytes => bytes.map .capByte ++ [.evRxError ty]
  | .crc32 bytes => [.crcInit, .crcHash bytes, .crcResult]

end Sys2Proof
end

