-- ==== Sys2Proof/Machine/State.lean ====
section
/-! DEFINITION. The state of the capture-to-stream block (10_state R18 to R40) as plain data, the model faults, and
the state after power-on reset. Two fields are the model's own: `params`, the parameters, and `env`, the inputs and
answers to come. -/

namespace Sys2Proof.Machine

/-- A byte space: cells (offset, byte), offsets strictly rising, no cell holding the 0 that an unlisted offset
reads as (20_memory R41; entry 6). -/
abbrev Memory := List Host.Cell

/-- The canonical form of a byte space whose first offset is at least `lo`. -/
def Memory.wfFrom : Nat → Memory → Bool
  | _, [] => true
  | lo, (a, b) :: rest => lo ≤ a && b != 0#8 && Memory.wfFrom (a + 1) rest

/-- The canonical form of a byte space. -/
def Memory.wf (m : Memory) : Bool := Memory.wfFrom 0 m

/-- Every listed offset lies below `n`, the size of the space (20_memory R42 to R44). -/
def Memory.within (n : Nat) (m : Memory) : Bool := m.all (fun c => decide (c.1 < n))

/-- A Capture Slot (10_state R22). `part` is the field the spec calls partial. -/
structure Slot where
  data : Memory
  len : Half
  line : Line
  ty : BitVec 8
  part : Bool
deriving DecidableEq, Repr, Inhabited

/-- The Capture Ring (10_state R21 to R23). NSLOTS is the length of `slots`; no step changes it (entry 4). -/
structure Ring where
  slots : List Slot
  w : Nat
  r : Nat
  lostPending : Bool
  drops : Word
deriving DecidableEq, Repr, Inhabited

/-- NSLOTS (00_scope R7). -/
def Ring.nslots (g : Ring) : Nat := g.slots.length

/-- The capture buffer (10_state R25): `bytes` is S.capbuf, `len` is S.caplen. -/
structure CapBuf where
  bytes : Memory
  len : Half
deriving DecidableEq, Repr, Inhabited

/-- The framer's registers (10_state R27 to R32). -/
structure Framer where
  phase : BitVec 4
  seq : Word
  cyc : Nat
  pending0 : Bool
  txOff : Nat
  stall : Word
  aborted : Bool
  wake : Bool
  autostopped : Bool
deriving DecidableEq, Repr, Inhabited

/-- One thing for each of the five measurement channels 0 to 4, under the names of 20_memory R46 and in the
channel order of 30_encoding R73. -/
structure PerChannel (α : Type) where
  ccLineA : α
  ccLineB : α
  controlCurrent : α
  busVoltage : α
  busCurrent : α
deriving DecidableEq, Repr, Inhabited

/-- Telemetry registers and the active line (10_state R34, R35). -/
structure Telemetry where
  tel : PerChannel Half
  measErr : BitVec 5
  active : Line
deriving DecidableEq, Repr, Inhabited

/-- Runtime Configuration (10_state R36). -/
structure RunConfig where
  run : Bool
  lineSel : LineSel
  role : Role
  pull : BitVec 2
  suppress : Bool
  autostop : Bool
  idleUs : BitVec 24
deriving DecidableEq, Repr, Inhabited

/-- An output event (10_state R37). -/
inductive Event where
  /-- bytes the transport accepted, in order. -/
  | txBytes (bytes : List Byte)
  /-- stop the capture path (42_producer R101). -/
  | captureStop
  /-- re-arm the capture path (42_producer R101). -/
  | captureRearm
  /-- to the line-config port (44_control R153). -/
  | selectCaptureLine (mask : LineSel)
  /-- to the line-config port (44_control R154). -/
  | selectRole (role : Role) (pull : BitVec 2)
  /-- to the observer (44_control R151). -/
  | notifyLineActive (mask : LineSel)
  /-- the control port's answer: result code and value (44_control R150). -/
  | ctlResp (code : BitVec 8) (value : Word)
deriving DecidableEq, Repr, Inhabited

/-- What the measurement port answers for one channel: within its contract a 16-bit value or Error (none), or
something that is neither (43_framer R122, 60_exceptions R181). -/
inductive MeasAnswer where
  | answer (v : Option Half)
  | outOfContract
deriving DecidableEq, Repr, Inhabited

/-- A capture as the ring hands it over: tag, length and bytes (00_scope R16, 41_ring R89). -/
structure Capture where
  line : Line
  ty : BitVec 8
  part : Bool
  len : Half
  bytes : List Byte
deriving DecidableEq, Repr, Inhabited

/-- The side-band result of an internal operation issued on its own (30_encoding R66). -/
inductive OpResult where
  /-- no operation with a result has been issued on its own yet. -/
  | nothing
  /-- RING_TAKE's result: Empty is none. -/
  | taken (c : Option Capture)
  /-- CRC_RESULT's result. -/
  | code (c : Word)
deriving DecidableEq, Repr, Inhabited

/-- A turn: a step of an agent, or an internal word with its side-band bytes that a test issues directly (script
prefix `I:`, 30_encoding R79). -/
inductive Turn where
  | agent (t : AgentTurn)
  | internal (w : Word) (d : List Byte)
deriving DecidableEq, Repr, Inhabited

/-- THE MODEL'S OWN FIELDS, no state of the block: which turns and which answers of the environment come next
(entries 1 and 3), how many of each were drawn from a free value, and the last side-band result (entry 7). -/
structure Env where
  turns : List Turn
  turnCount : Nat
  measIn : List MeasAnswer
  measCount : Nat
  txIn : List Nat
  txCount : Nat
  opResult : OpResult
deriving DecidableEq, Repr, Inhabited

/-- The state: the tuple of 10_state R18, and the model's own `params` and `env`. -/
structure State where
  /-- THE MODEL'S OWN: the parameters of 00_scope R7, which R11 says are not state; no step writes them (entry 11). -/
  params : Params
  /-- R21 to R24. -/
  ring : Ring
  /-- R25. -/
  cap : CapBuf
  /-- R26. -/
  crc : Word
  /-- R27 to R32. -/
  framer : Framer
  /-- R33. -/
  pkt : Memory
  /-- R34, R35. -/
  telem : Telemetry
  /-- R36. -/
  cfg : RunConfig
  /-- R38. -/
  errCode : BitVec 8
  /-- R37. -/
  out : List Event
  /-- the model's own. -/
  env : Env
deriving DecidableEq, Repr, Inhabited

/-- The model faults of 60_exceptions R181. Each stops the model, not the hardware (R182): the step has no effect.
All are safe: the spec itself ends the model's run there. -/
inductive Fault where
  /-- Raised by an internal word with a nonzero reserved bit or of no internal operation, and by RING_PUT with more
  than PAYLOAD_MAX bytes (R181, 30_encoding R71). Safe. -/
  | badInternalOp
  /-- Raised by TX_WRITE when the transport answers more bytes than were offered (R181). Safe. -/
  | transportOverrun
  /-- Raised by TELEM when the measurement port answers neither a 16-bit value nor Error (R181). Safe. -/
  | badMeasurement
  /-- Raised by the framer when the phase register holds a code 10 to 15 (R181, 30_encoding R76). Safe. -/
  | badPhase
deriving DecidableEq, Repr

/-- Why a step has no meaning. -/
inductive Refusal where
  /-- Raised by exec's arm of an instruction that has no meaning yet. No arm does: every instruction has one. Safe. -/
  | notModelled (mnemonic : String)
deriving DecidableEq, Repr

/-- A slot at power-on: length and tag 0 (10_state R40); its unspecified data bytes list nothing (entry 6). -/
def Slot.empty : Slot := { data := [], len := 0#16, line := .a, ty := 0#8, part := false }

/-- The model's own fields before any input is listed (entries 1, 3, 7). -/
def Env.none : Env :=
  { turns := [], turnCount := 0, measIn := [], measCount := 0, txIn := [], txCount := 0, opResult := .nothing }

/-- The power-on state of 10_state R40 and 70_reset_and_hazards R200 for given parameters, NSLOTS and
IDLE_US_RESET among them. -/
def State.powerOn (p : Params) (nslots : Nat) (idleUsReset : BitVec 24) : State :=
  { params := p
    ring := { slots := List.replicate nslots Slot.empty, w := 0, r := 0, lostPending := false, drops := 0#32 }
    cap := { bytes := [], len := 0#16 }
    crc := 0xFFFFFFFF#32
    framer :=
      { phase := 0#4, seq := 0#32, cyc := 0, pending0 := false, txOff := 0, stall := 0#32, aborted := false
        wake := false, autostopped := false }
    pkt := []
    telem :=
      { tel := { ccLineA := 0#16, ccLineB := 0#16, controlCurrent := 0#16, busVoltage := 0#16, busCurrent := 0#16 }
        measErr := 0#5, active := .a }
    cfg :=
      { run := false, lineSel := .none, role := .sink, pull := 0#2, suppress := false, autostop := true
        idleUs := idleUsReset }
    errCode := 0#8
    out := []
    env := Env.none }

/-- Power-on reset (10_state R40, 70_reset_and_hazards R200), with the reference parameters (the default of
00_scope R7, entry 11) and the OPEN ones, NSLOTS and IDLE_US_RESET, as Config names them (entries 4 and 5). -/
def State.reset : State := State.powerOn Params.reference Config.nslots Config.idleUsReset

end Sys2Proof.Machine
end

