-- ==== Sys2Proof/Machine/Ops.lean ====
section
/-! DEFINITION. The named operations that the meanings share: reading and writing byte spaces, output events,
the phase register, ending a control command, raising a model fault. The block has no exception to take and none
to return from (60_exceptions R170, R186, R187): `raise` and `reject` are all that stands in their place. -/

namespace Sys2Proof.Machine

/-- What a step answers. -/
abbrev Result := Host.Outcome State Fault Refusal

/-! ### Byte spaces -/

/-- The byte at an offset; an unlisted offset reads as 0 (10_state R40; entry 6). -/
def readByte : Memory → Nat → Byte
  | [], _ => 0#8
  | (a, b) :: rest, i => if a = i then b else readByte rest i

/-- Write one byte, keeping the canonical form. -/
def writeByte : Memory → Nat → Byte → Memory
  | [], i, v => if v = 0#8 then [] else [(i, v)]
  | (a, b) :: rest, i, v =>
    if i < a then (if v = 0#8 then (a, b) :: rest else (i, v) :: (a, b) :: rest)
    else if i = a then (if v = 0#8 then rest else (a, v) :: rest)
    else (a, b) :: writeByte rest i v

/-- `MemRead(space, addr, n)` (00_scope R14). -/
def memRead (m : Memory) (addr : Nat) : Nat → List Byte
  | 0 => []
  | n + 1 => readByte m addr :: memRead m (addr + 1) n

/-- `MemWrite(space, addr, n, bytes)` with n the length of the list (00_scope R14). -/
def memWrite (m : Memory) (addr : Nat) : List Byte → Memory
  | [] => m
  | b :: bs => memWrite (writeByte m addr b) (addr + 1) bs

/-- `zeros(n)` (00_scope R14). -/
def zeros (n : Nat) : List Byte := List.replicate n 0#8

/-- `MemWrite(space, addr, n, zeros(n))`: the offsets [addr, addr + n) are listed no more, so each reads as 0. -/
def memZero (m : Memory) (addr n : Nat) : Memory := m.filter (fun c => decide (c.1 < addr) || decide (addr + n ≤ c.1))

/-- `MemWrite(space, addr, n, bytes ++ zeros(n - len(bytes)))`: the bytes, and zeros to the end of the n offsets
(43_framer R123; no reachable state has more than n bytes here, entry 14). -/
def memWritePadded (m : Memory) (addr n : Nat) (bs : List Byte) : Memory := memWrite (memZero m addr n) addr bs

/-- `le16` (00_scope R14). -/
def le16 (v : Half) : List Byte := [v.extractLsb' 0 8, v.extractLsb' 8 8]

/-- `le32` (00_scope R14). -/
def le32 (v : Word) : List Byte :=
  [v.extractLsb' 0 8, v.extractLsb' 8 8, v.extractLsb' 16 8, v.extractLsb' 24 8]

/-- A little-endian 16-bit field of a byte space (20_memory R50). -/
def readHalf (m : Memory) (addr : Nat) : Half := readByte m (addr + 1) ++ readByte m addr

/-! ### Events, phase, commands, faults -/

/-- `emit Event(args)` (00_scope R14): the history is only appended to (10_state R37). -/
def emit (e : Event) (s : State) : State := { s with out := s.out ++ [e] }

/-- `phase <- P` (00_scope R14). -/
def setPhase (p : BitVec 4) (s : State) : State := { s with framer := { s.framer with phase := p } }

/-- The codes of the phase register (30_encoding R76). -/
def phStopped : BitVec 4 := 0#4
def phCycleStart : BitVec 4 := 1#4
def phTelem : BitVec 4 := 2#4
def phAssemble : BitVec 4 := 3#4
def phSeal : BitVec 4 := 4#4
def phTxDecide : BitVec 4 := 5#4
def phTxWrite : BitVec 4 := 6#4
def phTxSleep : BitVec 4 := 7#4
def phClear : BitVec 4 := 8#4
def phIdleSleep : BitVec 4 := 9#4

/-- The result codes of the control port (60_exceptions R178). -/
def codeOk : BitVec 8 := 0#8
def codeIllegalOpcode : BitVec 8 := 1#8
def codeReservedField : BitVec 8 := 2#8
def codeBadRegIndex : BitVec 8 := 3#8

/-- How a control command ends: `S.err_code <- code; emit CtlResp(code, value)` (44_control R150). -/
def complete (code : BitVec 8) (value : Word) (s : State) : State :=
  emit (.ctlResp code value) { s with errCode := code }

/-- `reject(code)` (00_scope R14, 60_exceptions R179): nothing but the code and the answer. -/
def reject (code : BitVec 8) (s : State) : State := complete code 0#32 s

/-- `raise Fault(reason)` (00_scope R14, 60_exceptions R182): the step has no effect and the run ends. -/
def raise (f : Fault) : Result := .fault f

/-- Keep the side-band result of an internal operation issued on its own (30_encoding R66; entry 7). -/
def setOpResult (r : OpResult) (s : State) : State := { s with env := { s.env with opResult := r } }

/-! ### Slots -/

/-- `S.slot[i]` (00_scope R14). Every index the operations use is below NSLOTS in a reachable state; the slot that
an index beyond it reads as is unreachable (entry 14). -/
def getSlot (g : Ring) (i : Nat) : Slot := g.slots[i]?.getD Slot.empty

/-- `S.slot[i] <- v`. -/
def setSlot (g : Ring) (i : Nat) (v : Slot) : Ring := { g with slots := g.slots.set i v }

/-- The next ring index, "modulo N" (10_state R21). -/
def nextIndex (g : Ring) (i : Nat) : Nat := (i + 1) % g.nslots

/-- The count of unread captures, `(S.w - S.r) mod NSLOTS` (10_state R24). -/
def ringCount (g : Ring) : Nat := (g.w + (g.nslots - g.r % g.nslots)) % g.nslots

end Sys2Proof.Machine
end

