-- ==== Sys2Proof/Machine/Flags.lean ====
section
/-! DEFINITION. The computed fields: saturating counts, the packet-type word, the telemetry update and its error
flags, the line-detection heuristic, and the STATUS and CONFIG words. -/

namespace Sys2Proof.Machine

/-- `sat32(v + 1)` (00_scope R13). -/
def satInc (v : Word) : Word := if v = 0xFFFFFFFF#32 then v else v + 1#32

/-- `typeword(pol, lost, part, type)` (30_encoding R72) with PROTO_VERSION, most significant field first. -/
def typeword (version : BitVec 5) (pol : Line) (lost part : Bool) (ty : BitVec 8) : Half :=
  ty ++ version ++ bit part ++ bit lost ++ bit (lineBit pol)

/-- The window test of the heuristic, strict on both sides, on the signed value (43_framer R122). -/
def inWindow (p : Params) (v : Half) : Bool :=
  decide ((p.winLo : Int) < v.toInt) && decide (v.toInt < (p.winHi : Int))

/-- The line-detection heuristic (43_framer R122). -/
def chooseLine (p : Params) (telA telB : Half) (sel : LineSel) (active : Line) : Line :=
  if inWindow p telA then (if sel = .a then .b else .a)
  else if inWindow p telB then (if sel = .b then .a else .b)
  else active

/-- A channel's register after its read: "leave the corresponding field at its last known value" on an error
(43_framer R122). -/
def keepOr (old : Half) (answer : Option Half) : Half := answer.getD old

/-- The five registers after their reads. -/
def updateTel (old : PerChannel Half) (ans : PerChannel (Option Half)) : PerChannel Half :=
  { ccLineA := keepOr old.ccLineA ans.ccLineA
    ccLineB := keepOr old.ccLineB ans.ccLineB
    controlCurrent := keepOr old.controlCurrent ans.controlCurrent
    busVoltage := keepOr old.busVoltage ans.busVoltage
    busCurrent := keepOr old.busCurrent ans.busCurrent }

/-- `S.meas_err`: bit i is 1 iff channel i's read failed (10_state R34). -/
def measErrOf (ans : PerChannel (Option Half)) : BitVec 5 :=
  bit ans.busCurrent.isNone ++ bit ans.busVoltage.isNone ++ bit ans.controlCurrent.isNone
    ++ bit ans.ccLineB.isNone ++ bit ans.ccLineA.isNone

/-- STATUS, 30_encoding R75, bit 31 first. -/
def statusWord (s : State) : Word :=
  0#14 ++ bit s.framer.aborted ++ bit s.framer.pending0 ++ s.framer.phase ++ s.telem.measErr
    ++ bit (lineBit s.telem.active) ++ bit s.framer.wake ++ bit s.framer.autostopped ++ bit s.ring.lostPending
    ++ bit (s.ring.w == s.ring.r) ++ bit (s.framer.phase != phStopped) ++ bit s.cfg.run

/-- CONFIG, 30_encoding R75, bit 31 first. -/
def configWord (c : RunConfig) : Word :=
  0#25 ++ bit c.autostop ++ bit c.suppress ++ c.pull ++ bit (roleBit c.role) ++ lineSelBits c.lineSel

/-- The 32-bit REG value of a count, at the index of its register (30_encoding R74). For a count that 32 bits cannot
hold the spec states no value, and it is free (DESIGN CHOICE, entry 17). -/
def natWord (idx : BitVec 8) (n : Nat) : Word := if n < 2 ^ 32 then BitVec.ofNat 32 n else Config.wideCount idx n

/-- The REG map, 30_encoding R74: the value of the register an index names, none where it names no register. -/
def readReg (idx : BitVec 8) (s : State) : Option Word :=
  match idx.toNat with
  | 0 => some (statusWord s)
  | 1 => some (configWord s.cfg)
  | 2 => some (s.cfg.idleUs.setWidth 32)
  | 3 => some s.framer.seq
  | 4 => some (natWord idx s.ring.w)
  | 5 => some (natWord idx s.ring.r)
  | 6 => some (natWord idx (ringCount s.ring))
  | 7 => some s.ring.drops
  | 8 => some s.framer.stall
  | 9 => some (natWord idx s.framer.cyc)
  | 10 => some (s.telem.tel.ccLineA.setWidth 32)
  | 11 => some (s.telem.tel.ccLineB.setWidth 32)
  | 12 => some (s.telem.tel.controlCurrent.setWidth 32)
  | 13 => some (s.telem.tel.busVoltage.setWidth 32)
  | 14 => some (s.telem.tel.busCurrent.setWidth 32)
  | 15 => some s.crc
  | 16 => some (s.cap.len.setWidth 32)
  | 17 => some (natWord idx s.framer.txOff)
  | 18 => some (s.errCode.setWidth 32)
  | _ => none

end Sys2Proof.Machine
end

