-- ==== Sys2Proof/Machine/CaptureRing.lean ====
section
/-! DEFINITION. The Capture Ring (41_ring): RING_PUT, RING_TAKE and the ring part of `reset()`. -/

namespace Sys2Proof.Machine

/-- The slot a put writes: the bytes [0, len(D)), the length and the whole tag; the data bytes beyond are not
written (41_ring R88). -/
def putSlot (old : Slot) (line : Line) (ty : BitVec 8) (part : Bool) (data : List Byte) : Slot :=
  { data := memWrite old.data 0 data, len := BitVec.ofNat 16 data.length, line := line, ty := ty, part := part }

/-- RING_PUT on the ring (41_ring R88): overwrite-oldest when the next write index meets the read index. -/
def ringPutOp (line : Line) (ty : BitVec 8) (part : Bool) (data : List Byte) (g : Ring) : Ring :=
  if nextIndex g g.w = g.r then
    { setSlot g g.w (putSlot (getSlot g g.w) line ty part data) with
      w := nextIndex g g.w, r := nextIndex g g.r, lostPending := true, drops := satInc g.drops }
  else { setSlot g g.w (putSlot (getSlot g g.w) line ty part data) with w := nextIndex g g.w }

/-- The capture a slot holds: its tag, its length and its bytes [0, len) (41_ring R89). -/
def slotCapture (sl : Slot) : Capture :=
  { line := sl.line, ty := sl.ty, part := sl.part, len := sl.len, bytes := memRead sl.data 0 sl.len.toNat }

/-- RING_TAKE on the ring (41_ring R89): Empty is none and writes nothing; a take clears the slot's length and
leaves its tag. -/
def ringTakeOp (g : Ring) : Option Capture × Ring :=
  if g.r = g.w then (none, g)
  else
    (some (slotCapture (getSlot g g.r)),
      { setSlot g g.r { getSlot g g.r with len := 0#16 } with r := nextIndex g g.r })

/-- One slot of `ring_clear`: length and tag 0, data bytes not written (41_ring R90). -/
def clearSlot (sl : Slot) : Slot := { sl with len := 0#16, line := .a, ty := 0#8, part := false }

/-- `ring_clear()` (41_ring R90). -/
def ringClear (g : Ring) : Ring :=
  { slots := g.slots.map clearSlot, w := 0, r := 0, lostPending := false, drops := 0#32 }

/-- A put as a step of the machine: the length check comes before any write (41_ring R88, 60_exceptions R183). -/
def putCapture (line : Line) (ty : BitVec 8) (part : Bool) (data : List Byte) (s : State) : Result :=
  if s.params.payloadMax < data.length then raise .badInternalOp
  else .next { s with ring := ringPutOp line ty part data s.ring }

/-- RING_PUT, 41_ring R88. -/
def execRingPut (line : Line) (ty : BitVec 8) (part : Bool) (data : List Byte) (s : State) : Result :=
  putCapture line ty part data s

/-- RING_TAKE, 41_ring R89; what it returns is its side-band result (entry 7). -/
def execRingTake (s : State) : Result :=
  .next (setOpResult (.taken (ringTakeOp s.ring).1) { s with ring := (ringTakeOp s.ring).2 })

end Sys2Proof.Machine
end

