-- ==== Sys2Proof/Machine/Control.lean ====
section
/-! DEFINITION. The Control Surface (44_control). Each meaning is the whole handling of a command word that decodes
to it, with the result code and the CtlResp event of R150. -/

namespace Sys2Proof.Machine

/-- `return (OK, 0)` (44_control R150). -/
def completeOk (s : State) : State := complete codeOk 0#32 s

/-- What `start(true)` resets beyond the start flag, and its notice to the observer (44_control R151). -/
def startFresh (s : State) : State :=
  emit (.notifyLineActive s.cfg.lineSel)
    { s with framer := { s.framer with seq := 0#32, cyc := 0, autostopped := false } }

/-- The start flag (10_state R36). -/
def setRun (run : Bool) (s : State) : State := { s with cfg := { s.cfg with run := run } }

/-- CTL_START, 44_control R151. -/
def execCtlStart (run : Bool) (s : State) : Result :=
  if run then .next (completeOk (startFresh (setRun true s))) else .next (completeOk (setRun false s))

/-- CTL_RESET, 44_control R152. -/
def execCtlReset (s : State) : Result :=
  .next (completeOk { s with ring := ringClear s.ring, framer := { s.framer with seq := 0#32, cyc := 0 } })

/-- CTL_SET_LINE, 44_control R153. -/
def execCtlSetLine (sel : LineSel) (s : State) : Result :=
  .next (completeOk (emit (.selectCaptureLine sel) { s with cfg := { s.cfg with lineSel := sel } }))

/-- CTL_SET_ROLE, 44_control R154. The decoder rejects a sink with a pull strength (R150); the meaning answers such
operands the same way (entry 15). -/
def execCtlSetRole (role : Role) (pull : BitVec 2) (s : State) : Result :=
  if role = .sink ∧ pull ≠ 0#2 then .next (reject codeReservedField s)
  else .next (completeOk (emit (.selectRole role pull) { s with cfg := { s.cfg with role := role, pull := pull } }))

/-- CTL_SET_OUTMODE, 44_control R155. -/
def execCtlSetOutmode (onCapture : Bool) (s : State) : Result :=
  .next (completeOk { s with cfg := { s.cfg with suppress := onCapture } })

/-- CTL_SET_AUTOSTOP, 44_control R156. -/
def execCtlSetAutostop (on : Bool) (s : State) : Result :=
  .next (completeOk { s with cfg := { s.cfg with autostop := on } })

/-- CTL_SET_IDLE, 44_control R157. -/
def execCtlSetIdle (us : BitVec 24) (s : State) : Result :=
  .next (completeOk { s with cfg := { s.cfg with idleUs := us } })

/-- CTL_READ, 44_control R158: the value is sampled before this command's own result code is written. -/
def execCtlRead (idx : BitVec 8) (s : State) : Result :=
  match readReg idx s with
  | some v => .next (complete codeOk v s)
  | none => .next (complete codeBadRegIndex 0#32 s)

end Sys2Proof.Machine
end

