-- ==== Sys2Proof/Machine/Crc.lean ====
section
/-! DEFINITION. The Integrity Coder (40_crc). -/

namespace Sys2Proof.Machine

/-- One round of the byte fold: shift right, and the reflected polynomial if a 1 was shifted out (40_crc R82). -/
def crcBit (c : Word) : Word := if c.getLsbD 0 then (c >>> 1) ^^^ 0xEDB88320#32 else c >>> 1

/-- n rounds. -/
def crcRounds : Nat → Word → Word
  | 0, c => c
  | n + 1, c => crcRounds n (crcBit c)

/-- `crc_byte` (40_crc R82). -/
def crcByte (c : Word) (b : Byte) : Word := crcRounds 8 (c ^^^ b.setWidth 32)

/-- `crc_fold` (40_crc R82). -/
def crcFold : Word → List Byte → Word
  | c, [] => c
  | c, b :: bs => crcFold (crcByte c b) bs

/-- `crc32` of a byte list (40_crc R82). -/
def crc32 (bs : List Byte) : Word := crcFold 0xFFFFFFFF#32 bs ^^^ 0xFFFFFFFF#32

/-- `init()` on the CRC register (40_crc R83). -/
def crcInitOp (s : State) : State := { s with crc := 0xFFFFFFFF#32 }

/-- `hash(bytes)` on the CRC register (40_crc R84). -/
def crcHashOp (data : List Byte) (s : State) : State := { s with crc := crcFold s.crc data }

/-- `result()` of the CRC register, which it leaves as it is (40_crc R85). -/
def crcResultOp (s : State) : Word := s.crc ^^^ 0xFFFFFFFF#32

/-- CRC_INIT, 40_crc R83. -/
def execCrcInit (s : State) : Result := .next (crcInitOp s)

/-- CRC_HASH, 40_crc R84. -/
def execCrcHash (data : List Byte) (s : State) : Result := .next (crcHashOp data s)

/-- CRC_RESULT, 40_crc R85; the code is its side-band result (entry 7). -/
def execCrcResult (s : State) : Result := .next (setOpResult (.code (crcResultOp s)) s)

end Sys2Proof.Machine
end

