-- ==== Sys2Proof/Machine/Operands.lean ====
section
/-! DEFINITION. What an operation reads besides the fields of its word: the answers it draws from the environment
(00_scope R14) and the transport's view of the packet buffer. A listed answer is taken first; where none is listed
the answer is a free value (entry 3). -/

namespace Sys2Proof.Machine

/-- One draw from the measurement port (43_framer R122). -/
def drawMeas (s : State) : MeasAnswer × State :=
  match s.env.measIn with
  | [] =>
    (.answer (Config.freeMeas s.env.measCount), { s with env := { s.env with measCount := s.env.measCount + 1 } })
  | m :: rest => (m, { s with env := { s.env with measIn := rest } })

/-- The five draws of TELEM, channel 0 first (43_framer R122). -/
def drawChannels (s : State) : PerChannel MeasAnswer × State :=
  let d0 := drawMeas s
  let d1 := drawMeas d0.2
  let d2 := drawMeas d1.2
  let d3 := drawMeas d2.2
  let d4 := drawMeas d3.2
  ({ ccLineA := d0.1, ccLineB := d1.1, controlCurrent := d2.1, busVoltage := d3.1, busCurrent := d4.1 }, d4.2)

/-- The answers, if all keep the measurement port's contract (60_exceptions R181). -/
def withinContract (a : PerChannel MeasAnswer) : Option (PerChannel (Option Half)) :=
  match a.ccLineA, a.ccLineB, a.controlCurrent, a.busVoltage, a.busCurrent with
  | .answer v0, .answer v1, .answer v2, .answer v3, .answer v4 =>
    some { ccLineA := v0, ccLineB := v1, controlCurrent := v2, busVoltage := v3, busCurrent := v4 }
  | _, _, _, _, _ => none

/-- The bytes a transport write offers, `PKT_LEN - S.tx_off` (43_framer R126). -/
def offered (s : State) : Nat := s.params.pktLen - s.framer.txOff

/-- The transport's answer and the state after the draw: a listed answer as it is, else the free value brought
into `[0, offered]` (43_framer R126; entry 3). -/
def drawTx (s : State) : Nat × State :=
  match s.env.txIn with
  | [] =>
    (Config.freeTx s.env.txCount % (offered s + 1), { s with env := { s.env with txCount := s.env.txCount + 1 } })
  | k :: rest => (k, { s with env := { s.env with txIn := rest } })

/-- Whether the next listed transport answer is out of range (60_exceptions R181); a free answer never is. -/
def txOverrun (s : State) : Bool :=
  match s.env.txIn with
  | [] => false
  | k :: _ => offered s < k

end Sys2Proof.Machine
end

