-- ==== Sys2Proof/Machine/Phases.lean ====
section
/-! DEFINITION. The packet framer's phases (43_framer R120 to R129). -/

namespace Sys2Proof.Machine

/-- The packet offsets of 20_memory R46. -/
def offSeq : Nat := 0
def offTel : Nat := 4
def offType : Nat := 14
def offLen : Nat := 16
def offReserved : Nat := 18
def offPayload : Nat := 20

/-- Write bytes into the packet buffer. -/
def writePkt (off : Nat) (bs : List Byte) (s : State) : State := { s with pkt := memWrite s.pkt off bs }

/-- Write the payload field: the bytes, and zeros to PAYLOAD_MAX (43_framer R123, R127). -/
def writePayload (bs : List Byte) (s : State) : State :=
  { s with pkt := memWritePadded s.pkt offPayload s.params.payloadMax bs }

/-- The span the integrity code covers, PKT[0 .. SPAN) (43_framer R124). Both cases are `MemRead(PKT, 0, SPAN)`
(Laws: pktSpan_eq); the split keeps a proof about a packet buffer it does not know from unfolding every read. -/
def pktSpan (span : Nat) (m : Memory) : List Byte :=
  match m with
  | [] => memRead [] 0 span
  | c :: rest => memRead (c :: rest) 0 span

/-- STOPPED, 43_framer R120. With run = 0 the framer has no enabled step: its turn changes nothing (entry 8). -/
def execPhaseStopped (s : State) : Result :=
  if s.cfg.run then .next (setPhase phCycleStart s) else .next s

/-- The registers CYCLE_START writes when it runs a cycle (43_framer R121). -/
def startCycle (s : State) : State :=
  { s with
    framer :=
      { s.framer with
        seq := s.framer.seq + 1#32
        pending0 := s.ring.w != s.ring.r
        aborted := false
        wake := false
        phase := if s.framer.cyc = 0 then phTelem else phAssemble } }

/-- CYCLE_START, 43_framer R121. -/
def execPhaseCycleStart (s : State) : Result :=
  if s.cfg.run then .next (writePkt offSeq (le32 (s.framer.seq + 1#32)) (startCycle s))
  else .next (setPhase phStopped s)

/-- The telemetry registers after the five reads (43_framer R122). -/
def refreshTelemetry (p : Params) (ans : PerChannel (Option Half)) (sel : LineSel) (t : Telemetry) : Telemetry :=
  { tel := updateTel t.tel ans
    measErr := measErrOf ans
    active := chooseLine p (updateTel t.tel ans).ccLineA (updateTel t.tel ans).ccLineB sel t.active }

/-- TELEM, 43_framer R122; an answer out of contract is the fault BadMeasurement (60_exceptions R181). -/
def execPhaseTelem (s : State) : Result :=
  match withinContract (drawChannels s).1 with
  | none => raise .badMeasurement
  | some ans =>
    .next (setPhase phAssemble
      { (drawChannels s).2 with telem := refreshTelemetry s.params ans s.cfg.lineSel s.telem })

/-- The five telemetry fields of the header, channel 0 first (43_framer R123, 20_memory R46). -/
def telBytes (t : PerChannel Half) : List Byte :=
  le16 t.ccLineA ++ le16 t.ccLineB ++ le16 t.controlCurrent ++ le16 t.busVoltage ++ le16 t.busCurrent

/-- What ASSEMBLE writes of a capture: payload with zeros to PAYLOAD_MAX, length and packet-type word
(43_framer R123). -/
def writeCapture (c : Capture) (lost : Bool) (s : State) : State :=
  writePkt offType (le16 (typeword s.params.protoVersion c.line lost c.part c.ty))
    (writePkt offLen (le16 c.len) (writePayload c.bytes s))

/-- What a take cycle writes after its one take (43_framer R123). -/
def writeTake (res : Option Capture) (lost : Bool) (s : State) : State :=
  match res with
  | some c => writeCapture c lost s
  | none => writePkt offType (le16 (typeword s.params.protoVersion s.telem.active lost false 0#8)) s

/-- A take cycle's header population and its one RING_TAKE (43_framer R123). -/
def assembleTake (s : State) : State :=
  writeTake (ringTakeOp s.ring).1 s.ring.lostPending
    (writePkt offTel (telBytes s.telem.tel)
      { s with ring := { (ringTakeOp s.ring).2 with lostPending := false } })

/-- ASSEMBLE, 43_framer R123: nothing is written on a cycle with index TAKE_CYCLES or above. -/
def execPhaseAssemble (s : State) : Result :=
  if s.framer.cyc < s.params.takeCycles then .next (setPhase phSeal (assembleTake s))
  else .next (setPhase phSeal s)

/-- SEAL, 43_framer R124: CRC_INIT, CRC_HASH over the span, CRC_RESULT into the trailer. -/
def execPhaseSeal (s : State) : Result :=
  .next (setPhase phTxDecide
    (writePkt s.params.span (le32 (crcResultOp (crcHashOp (pktSpan s.params.span s.pkt) (crcInitOp s))))
      (crcHashOp (pktSpan s.params.span s.pkt) (crcInitOp s))))

/-- TX_DECIDE, 43_framer R125. -/
def execPhaseTxDecide (s : State) : Result :=
  if readHalf s.pkt offLen ≠ 0#16 ∨ s.cfg.suppress = false then
    .next { s with framer := { s.framer with txOff := 0, stall := 0#32, phase := phTxWrite } }
  else .next (setPhase phClear s)

/-- A write of which the transport accepted k bytes, k > 0 (43_framer R126). -/
def txAccept (k : Nat) (s : State) : State :=
  emit (.txBytes (memRead s.pkt s.framer.txOff k))
    { s with
      framer :=
        { s.framer with
          txOff := s.framer.txOff + k
          phase := if s.framer.txOff + k = s.params.pktLen then phClear else phTxWrite } }

/-- A write of which the transport accepted nothing: stall, and auto-stop past the threshold (43_framer R126). -/
def txStall (s : State) : State :=
  if s.params.stallMax < (satInc s.framer.stall).toNat ∧ s.cfg.autostop = true then
    { s with
      framer :=
        { s.framer with stall := satInc s.framer.stall, aborted := true, autostopped := true, phase := phClear }
      cfg := { s.cfg with run := false } }
  else { s with framer := { s.framer with stall := satInc s.framer.stall, phase := phTxSleep } }

/-- TX_WRITE, 43_framer R126; an answer out of range is the fault TransportOverrun, before anything is emitted
(60_exceptions R183). -/
def execPhaseTxWrite (s : State) : Result :=
  if txOverrun s then raise .transportOverrun
  else .next (if (drawTx s).1 = 0 then txStall (drawTx s).2 else txAccept (drawTx s).1 (drawTx s).2)

/-- The end of a sleep, by the timer or by the wake latch: both do the same (43_framer R128, R129). -/
def endSleep (p : BitVec 4) (s : State) : State :=
  { s with framer := { s.framer with wake := false, phase := p } }

/-- TX_SLEEP, 43_framer R128. -/
def execPhaseTxSleep (s : State) : Result := .next (endSleep phTxWrite s)

/-- The phase after CLEAR (43_framer R127). -/
def afterClear (f : Framer) : BitVec 4 :=
  if f.aborted then phStopped else if f.pending0 then phCycleStart else phIdleSleep

/-- CLEAR, 43_framer R127: payload bytes and length field zeroed, the cycle index advanced modulo K. -/
def execPhaseClear (s : State) : Result :=
  .next (writePkt offLen (le16 0#16) (writePayload []
    { s with
      framer := { s.framer with cyc := (s.framer.cyc + 1) % s.params.k, phase := afterClear s.framer } }))

/-- IDLE_SLEEP, 43_framer R129. -/
def execPhaseIdleSleep (s : State) : Result := .next (endSleep phCycleStart s)

end Sys2Proof.Machine
end

