-- ==== Sys2Proof/Machine/Producer.lean ====
section
/-! DEFINITION. The Capture Producer (42_producer). -/

namespace Sys2Proof.Machine

/-- CAP_BYTE, 42_producer R100: a byte beyond PAYLOAD_MAX is discarded. -/
def execCapByte (b : Byte) (s : State) : Result :=
  if s.cap.len.toNat < s.params.payloadMax then
    .next { s with cap := { bytes := writeByte s.cap.bytes s.cap.len.toNat b, len := s.cap.len + 1#16 } }
  else .next s

/-- The capture buffer cleared: zeros written to the whole space, length 0 (42_producer R101). -/
def clearCapBuf (s : State) : State :=
  { s with cap := { bytes := memZero s.cap.bytes 0 s.params.payloadMax, len := 0#16 } }

/-- `if s = 1 then S.wake <- 1` (42_producer R101). -/
def signalWake (signal : Bool) (s : State) : State :=
  { s with framer := { s.framer with wake := s.framer.wake || signal } }

/-- The common producer action, 42_producer R101, one atomic step: stop the capture path, put the accumulated
bytes with the active line's tag, clear the buffer, re-arm, and signal where asked. -/
def producerEvent (ty : BitVec 8) (part signal : Bool) (s : State) : Result :=
  match putCapture s.telem.active ty part (memRead s.cap.bytes 0 s.cap.len.toNat) (emit .captureStop s) with
  | .next s' => .next (signalWake signal (emit .captureRearm (clearCapBuf s')))
  | .fault f => .fault f
  | .refused r => .refused r

/-- EV_RX_COMPLETE, 42_producer R102. -/
def execEvRxComplete (ty : BitVec 8) (s : State) : Result := producerEvent ty false true s

/-- EV_RX_ERROR, 42_producer R103. -/
def execEvRxError (ty : BitVec 8) (s : State) : Result := producerEvent ty true false s

end Sys2Proof.Machine
end

