-- ==== Sys2Proof/Machine/Dispatch.lean ====
section
/-! DEFINITION. The meaning of every instruction, one arm each. -/

namespace Sys2Proof.Machine

def exec (i : Instr) (s : State) : Host.Outcome State Fault Refusal :=
  match i with
  | .ctlStart run => Sys2Proof.Machine.execCtlStart run s
  | .ctlReset => Sys2Proof.Machine.execCtlReset s
  | .ctlSetLine sel => Sys2Proof.Machine.execCtlSetLine sel s
  | .ctlSetRole role pull => Sys2Proof.Machine.execCtlSetRole role pull s
  | .ctlSetOutmode onCapture => Sys2Proof.Machine.execCtlSetOutmode onCapture s
  | .ctlSetAutostop on => Sys2Proof.Machine.execCtlSetAutostop on s
  | .ctlSetIdle us => Sys2Proof.Machine.execCtlSetIdle us s
  | .ctlRead idx => Sys2Proof.Machine.execCtlRead idx s
  | .capByte b => Sys2Proof.Machine.execCapByte b s
  | .evRxComplete ty => Sys2Proof.Machine.execEvRxComplete ty s
  | .evRxError ty => Sys2Proof.Machine.execEvRxError ty s
  | .ringPut line ty part data => Sys2Proof.Machine.execRingPut line ty part data s
  | .ringTake => Sys2Proof.Machine.execRingTake s
  | .crcInit => Sys2Proof.Machine.execCrcInit s
  | .crcHash data => Sys2Proof.Machine.execCrcHash data s
  | .crcResult => Sys2Proof.Machine.execCrcResult s
  | .phaseStopped => Sys2Proof.Machine.execPhaseStopped s
  | .phaseCycleStart => Sys2Proof.Machine.execPhaseCycleStart s
  | .phaseTelem => Sys2Proof.Machine.execPhaseTelem s
  | .phaseAssemble => Sys2Proof.Machine.execPhaseAssemble s
  | .phaseSeal => Sys2Proof.Machine.execPhaseSeal s
  | .phaseTxDecide => Sys2Proof.Machine.execPhaseTxDecide s
  | .phaseTxWrite => Sys2Proof.Machine.execPhaseTxWrite s
  | .phaseTxSleep => Sys2Proof.Machine.execPhaseTxSleep s
  | .phaseClear => Sys2Proof.Machine.execPhaseClear s
  | .phaseIdleSleep => Sys2Proof.Machine.execPhaseIdleSleep s

end Sys2Proof.Machine
end

