-- ==== Sys2Proof/Machine/Fetch.lean ====
section
/-! DEFINITION. Which turn comes next and what it asks for. The block fetches no instructions (20_memory R62): its
operations arrive as words on its ports or are the phase its phase register names. -/

namespace Sys2Proof.Machine

/-- What a turn asks for, after it has been taken. -/
inductive Fetched where
  /-- run this instruction in this state. -/
  | run (i : Instr) (s : State)
  /-- the turn is over with this state: a rejected or ignored word. -/
  | done (s : State)
  /-- the turn is a model fault. -/
  | fault (f : Fault)
deriving DecidableEq, Repr

/-- The next turn: the first listed one, else a free one (00_scope R12; entries 1 and 2). -/
def nextTurn (s : State) : Turn :=
  match s.env.turns with
  | [] => .agent (Config.freeTurn s.env.turnCount)
  | t :: _ => t

/-- The state once its next turn is taken. -/
def afterTurn (s : State) : State :=
  match s.env.turns with
  | [] => { s with env := { s.env with turnCount := s.env.turnCount + 1 } }
  | _ :: rest => { s with env := { s.env with turns := rest } }

/-- The result code of a rejected control word (60_exceptions R178). -/
def rejectCode : DecodeError → BitVec 8
  | .illegalOpcode => codeIllegalOpcode
  | .reservedField => codeReservedField

/-- A word on the control port (44_control R150): rejected with its code, or the command it names. -/
def fetchControl (w : Word) (s : State) : Fetched :=
  match decodeAt .control w [] with
  | .ok i => .run i s
  | .error e => .done (reject (rejectCode e) s)

/-- A word on the capture port (60_exceptions R180): ignored, or the operation it names. -/
def fetchCapture (w : Word) (s : State) : Fetched :=
  match decodeAt .capture w [] with
  | .ok i => .run i s
  | .error _ => .done s

/-- An internal word (30_encoding R71, 60_exceptions R181; entries 9 and 10). -/
def fetchInternal (w : Word) (d : List Byte) (s : State) : Fetched :=
  match decodeAt .internal w d with
  | .ok i => .run i s
  | .error _ => .fault .badInternalOp

/-- The framer's step: the phase its phase register names (30_encoding R76). -/
def fetchFramer (s : State) : Fetched :=
  match decodePhase s.framer.phase with
  | some i => .run i s
  | none => .fault .badPhase

/-- What a turn asks for. -/
def fetchTurn (t : Turn) (s : State) : Fetched :=
  match t with
  | .agent (.control w) => fetchControl w s
  | .agent (.capture w) => fetchCapture w s
  | .agent .framer => fetchFramer s
  | .internal w d => fetchInternal w d s

/-- Take the next turn. -/
def fetch (s : State) : Fetched := fetchTurn (nextTurn s) (afterTurn s)

/-- Put a turn before all others. -/
def pushTurn (t : Turn) (s : State) : State := { s with env := { s.env with turns := t :: s.env.turns } }

/-- The turn that brings a word of the opcode table to its unit's port (30_encoding R65; entry 13). -/
def turnOfWord (w : Word) : Turn :=
  match portOfUnit w with
  | .control => .agent (.control w)
  | .capture => .agent (.capture w)
  | .internal => .internal w []

/-- Place a word of the opcode table where the next step takes it: a phase code in the phase register before a
framer turn, any other word as a turn at its unit's port (entry 2). -/
def placeWord (s : State) (nbits w : Nat) : State :=
  if isPhaseWord nbits w then pushTurn (.agent .framer) (setPhase (BitVec.ofNat 4 w) s)
  else pushTurn (turnOfWord (BitVec.ofNat 32 w)) s

end Sys2Proof.Machine
end

