-- ==== Sys2Proof/Machine/Assembler.lean ====
section
/-! DEFINITION. The notations of the spec: the assembler of 30_encoding R77 and R78, total and rejecting what has no
canonical form, and the scripts of R79 as turns and answers to come. -/

namespace Sys2Proof.Machine

/-- The tokens of one line: words, and the marks that separate and bracket operands (30_encoding R77). -/
inductive Token where
  | word (cs : List Char)
  | comma
  | openList
  | closeList
deriving DecidableEq, Repr

/-- The word read so far, its last character first, before the tokens that follow it. -/
def withWord (acc : List Char) (rest : List Token) : List Token :=
  if acc = [] then rest else .word acc.reverse :: rest

/-- The tokens of a line; `;` starts a comment (30_encoding R77). -/
def tokenize : List Char → List Char → List Token
  | acc, [] => withWord acc []
  | acc, c :: cs =>
    if c = ';' then withWord acc []
    else if c = ',' then withWord acc (.comma :: tokenize [] cs)
    else if c = '[' then withWord acc (.openList :: tokenize [] cs)
    else if c = ']' then withWord acc (.closeList :: tokenize [] cs)
    else if c.isWhitespace then withWord acc (tokenize [] cs)
    else tokenize (c :: acc) cs

/-- The value of a digit, hexadecimal digits in either case. -/
def digitValue (c : Char) : Option Nat :=
  if '0' ≤ c ∧ c ≤ '9' then some (c.toNat - '0'.toNat)
  else if 'a' ≤ c ∧ c ≤ 'f' then some (c.toNat - 'a'.toNat + 10)
  else if 'A' ≤ c ∧ c ≤ 'F' then some (c.toNat - 'A'.toNat + 10)
  else none

/-- Digits to a given base, most significant first, onto the value so far. -/
def digitsValue (base : Nat) : Nat → List Char → Option Nat
  | v, [] => some v
  | v, c :: cs =>
    match digitValue c with
    | some d => if d < base then digitsValue base (v * base + d) cs else none
    | none => none

/-- A number: decimal, or hexadecimal after `0x` (30_encoding R77). -/
def numberOf (cs : List Char) : Option Nat :=
  match cs with
  | [] => none
  | '0' :: 'x' :: d :: ds => digitsValue 16 0 (d :: ds)
  | d :: ds => digitsValue 10 0 (d :: ds)

/-- A number that fits a field of n bits. -/
def fieldOf (n : Nat) (cs : List Char) : Option (BitVec n) :=
  match numberOf cs with
  | some v => if v < 2 ^ n then some (BitVec.ofNat n v) else none
  | none => none

/-- The bytes of a bracketed list after its opening bracket, at least one. -/
def listItems : List Token → Option (List Byte)
  | [.word w, .closeList] => (fieldOf 8 w).map (fun b => [b])
  | .word w :: .comma :: rest =>
    match fieldOf 8 w, listItems rest with
    | some b, some bs => some (b :: bs)
    | _, _ => none
  | _ => none

/-- A bracketed byte list that ends the line. -/
def byteList : List Token → Option (List Byte)
  | [.openList, .closeList] => some []
  | .openList :: rest => listItems rest
  | _ => none

/-- The register names of 30_encoding R74. -/
def registerNames : List (String × BitVec 8) :=
  [("STATUS", 0x00#8), ("CONFIG", 0x01#8), ("IDLE_US", 0x02#8), ("SEQ", 0x03#8), ("RING_W", 0x04#8),
    ("RING_R", 0x05#8), ("RING_COUNT", 0x06#8), ("DROPS", 0x07#8), ("STALL", 0x08#8), ("CYC", 0x09#8),
    ("TEL0", 0x0A#8), ("TEL1", 0x0B#8), ("TEL2", 0x0C#8), ("TEL3", 0x0D#8), ("TEL4", 0x0E#8), ("CRC", 0x0F#8),
    ("CAPLEN", 0x10#8), ("TX_OFF", 0x11#8), ("ERR_CODE", 0x12#8)]

/-- The operand of `read`: an index, or the name of a register. -/
def registerOperand (cs : List Char) : Option (BitVec 8) :=
  match fieldOf 8 cs with
  | some i => some i
  | none => (registerNames.find? (fun p => p.1 == String.ofList cs)).map (·.2)

/-- One of two keywords, as the bit it stands for. -/
def keyword (zero one : String) (cs : List Char) : Option Bool :=
  if String.ofList cs = zero then some false else if String.ofList cs = one then some true else none

/-- The line selection keywords. -/
def selOperand (cs : List Char) : Option LineSel :=
  if String.ofList cs = "none" then some .none
  else if String.ofList cs = "a" then some .a
  else if String.ofList cs = "b" then some .b
  else if String.ofList cs = "both" then some .both
  else none

/-- The operand of an operation that takes one word, read as a field. -/
def oneField (n : Nat) (args : List Token) : Option (BitVec n) :=
  match args with
  | [.word w] => fieldOf n w
  | _ => none

/-- A type code and a byte list, the operands of `capmsg` and `caperr`. -/
def typedList (args : List Token) : Option (BitVec 8 × List Byte) :=
  match args with
  | .word t :: .comma :: rest =>
    match fieldOf 8 t, byteList rest with
    | some ty, some bs => some (ty, bs)
    | _, _ => none
  | _ => none

/-- The role operands: `sink`, or `source, p`. -/
def roleOperands (args : List Token) : Option Instr :=
  match args with
  | [.word r] => if String.ofList r = "sink" then some (.ctlSetRole .sink 0#2) else none
  | [.word r, .comma, .word p] =>
    if String.ofList r = "source" then (fieldOf 2 p).map (.ctlSetRole .source) else none
  | _ => none

/-- The operands of `put`: line, type, partial flag, bytes. -/
def putOperands (args : List Token) : Option Instr :=
  match args with
  | .word l :: .comma :: .word t :: .comma :: .word p :: .comma :: rest =>
    match keyword "a" "b" l, fieldOf 8 t, fieldOf 1 p, byteList rest with
    | some line, some ty, some part, some d => some (.ringPut (lineOfBit line) ty (part.getLsbD 0) d)
    | _, _, _, _ => none
  | _ => none

/-- The operand of an operation that takes one of two keywords. -/
def oneKeyword (zero one : String) (args : List Token) : Option Bool :=
  match args with
  | [.word w] => keyword zero one w
  | _ => none

/-- The operand of `setline`. -/
def oneSel (args : List Token) : Option LineSel :=
  match args with
  | [.word w] => selOperand w
  | _ => none

/-- The operand of `read`. -/
def oneRegister (args : List Token) : Option (BitVec 8) :=
  match args with
  | [.word w] => registerOperand w
  | _ => none

/-- An operation that takes no operand. -/
def noOperand (i : Instr) (args : List Token) : Option Instr := if args = [] then some i else none

/-- One operation or pseudo-operation: canonical forms of 30_encoding R77, expansions of R78. The mnemonic is in lower
case. -/
def assembleOp (mnemonic : String) (args : List Token) : Option (List Instr) :=
  if mnemonic = "start" then
    if args = [] then some (expandPseudo .start)
    else (oneField 1 args).map (fun v => [.ctlStart (v.getLsbD 0)])
  else if mnemonic = "stop" then if args = [] then some (expandPseudo .stop) else none
  else if mnemonic = "reset" then (noOperand .ctlReset args).map (fun i => [i])
  else if mnemonic = "setline" then (oneSel args).map (fun v => [.ctlSetLine v])
  else if mnemonic = "setrole" then (roleOperands args).map (fun i => [i])
  else if mnemonic = "outmode" then (oneKeyword "continuous" "oncapture" args).map (fun v => [.ctlSetOutmode v])
  else if mnemonic = "autostop" then (oneKeyword "off" "on" args).map (fun v => [.ctlSetAutostop v])
  else if mnemonic = "idle" then (oneField 24 args).map (fun v => [.ctlSetIdle v])
  else if mnemonic = "read" then (oneRegister args).map (fun v => [.ctlRead v])
  else if mnemonic = "capb" then (oneField 8 args).map (fun v => [.capByte v])
  else if mnemonic = "rxdone" then (oneField 8 args).map (fun v => [.evRxComplete v])
  else if mnemonic = "rxerr" then (oneField 8 args).map (fun v => [.evRxError v])
  else if mnemonic = "put" then (putOperands args).map (fun i => [i])
  else if mnemonic = "take" then (noOperand .ringTake args).map (fun i => [i])
  else if mnemonic = "crcinit" then (noOperand .crcInit args).map (fun i => [i])
  else if mnemonic = "crchash" then (byteList args).map (fun d => [.crcHash d])
  else if mnemonic = "crcresult" then (noOperand .crcResult args).map (fun i => [i])
  else if mnemonic = "capmsg" then (typedList args).map (fun v => expandPseudo (.capmsg v.1 v.2))
  else if mnemonic = "caperr" then (typedList args).map (fun v => expandPseudo (.caperr v.1 v.2))
  else if mnemonic = "crc32" then (byteList args).map (fun d => expandPseudo (.crc32 d))
  else none

/-- One line, mnemonics in either case; an empty line is no operation (30_encoding R77). -/
def assembleLine (line : String) : Option (List Encoded) :=
  match tokenize [] line.toList with
  | [] => some []
  | .word m :: args => (assembleOp (String.ofList (m.map Char.toLower)) args).map (fun is => is.map encode)
  | _ => none

/-- A program: the words of its lines in order, none if a line has no canonical form. -/
def assemble : List String → Option (List Encoded)
  | [] => some []
  | line :: rest =>
    match assembleLine line, assemble rest with
    | some ws, some more => some (ws ++ more)
    | _, _ => none

/-! ### Scripts -/

/-- One step of a script, 30_encoding R79: its agent and the answers it draws. A sleep ended by its timer draws
nothing the model holds (entry 12). -/
inductive ScriptStep where
  /-- `H:` -/
  | host (w : Word)
  /-- `P:` -/
  | capture (w : Word)
  /-- `F:` with the measurement answers and the transport's answer, where it draws them. -/
  | framer (meas : List MeasAnswer) (tx : Option Nat)
  /-- `I:` -/
  | internal (w : Word) (d : List Byte)
deriving DecidableEq, Repr

/-- The turn of a script step. -/
def scriptTurn : ScriptStep → Turn
  | .host w => .agent (.control w)
  | .capture w => .agent (.capture w)
  | .framer _ _ => .agent .framer
  | .internal w d => .internal w d

/-- The measurement answers of a script step. -/
def scriptMeas : ScriptStep → List MeasAnswer
  | .framer meas _ => meas
  | _ => []

/-- The transport's answer of a script step. -/
def scriptTx : ScriptStep → List Nat
  | .framer _ (some k) => [k]
  | _ => []

/-- A script as the turns and answers to come: it fixes one interleaving of the agents (30_encoding R79). -/
def loadScript (steps : List ScriptStep) (s : State) : State :=
  { s with
    env :=
      { s.env with
        turns := s.env.turns ++ steps.map scriptTurn
        measIn := s.env.measIn ++ steps.flatMap scriptMeas
        txIn := s.env.txIn ++ steps.flatMap scriptTx } }

end Sys2Proof.Machine
end

