-- ==== Sys2Proof/Safety.lean ====
section
/-! DEFINITION. The terms that claims about the block use: its unread captures, its invariant, runs of several steps,
what two states may differ in unseen, and the names of its error events and ports. -/

namespace Sys2Proof.Machine

/-! ### Runs -/

/-- n steps, stopping at the first fault or refusal. -/
def runSteps : Nat → State → Result
  | 0, s => .next s
  | n + 1, s =>
    match step s with
    | .next t => runSteps n t
    | .fault f => .fault f
    | .refused r => .refused r

/-- The instructions run one after another as operations of their own, stopping at the first fault or refusal. -/
def runInstrs : List Instr → State → Result
  | [], s => .next s
  | i :: rest, s =>
    match exec i s with
    | .next t => runInstrs rest t
    | .fault f => .fault f
    | .refused r => .refused r

/-- The results of n RING_TAKEs one after another. -/
def takeResults : Nat → State → List OpResult
  | 0, _ => []
  | n + 1, s =>
    match exec .ringTake s with
    | .next t => t.env.opResult :: takeResults n t
    | _ => []

/-! ### The ring as a queue -/

/-- CAPACITY = NSLOTS - 1 (00_scope R7, 41_ring R91). -/
def capacity (g : Ring) : Nat := g.nslots - 1

/-- The slot index j places after the read index. -/
def unreadIndex (g : Ring) (j : Nat) : Nat := (g.r + j) % g.nslots

/-- The unread captures, oldest first: the slots r, r+1, ..., w-1 (mod NSLOTS) (10_state R24). -/
def unread (g : Ring) : List Capture :=
  (List.range (ringCount g)).map (fun j => slotCapture (getSlot g (unreadIndex g j)))

/-- A capture whose length field is its number of bytes and which fits a slot: what a put can be given. -/
def Capture.fits (c : Capture) (p : Params) : Bool :=
  c.bytes.length ≤ p.payloadMax && c.len == BitVec.ofNat 16 c.bytes.length

/-- The RING_PUT of a capture. -/
def putOf (c : Capture) : Instr := .ringPut c.line c.ty c.part c.bytes

/-! ### The invariant -/

/-- A slot's length is at most PAYLOAD_MAX and its byte space is canonical and in bounds (10_state R22). -/
abbrev slotOk (p : Params) (sl : Slot) : Prop :=
  sl.len.toNat ≤ p.payloadMax ∧ sl.data.wf = true ∧ sl.data.within p.payloadMax = true

/-- The ring has at least two slots, its indices lie in [0, NSLOTS) and every slot is well-formed (10_state R21,
R22). -/
abbrev ringOk (p : Params) (g : Ring) : Prop :=
  2 ≤ g.nslots ∧ g.w < g.nslots ∧ g.r < g.nslots ∧ ∀ sl ∈ g.slots, slotOk p sl

/-- The capture buffer's count is at most PAYLOAD_MAX and its byte space is canonical and in bounds (10_state R25). -/
abbrev capOk (p : Params) (c : CapBuf) : Prop :=
  c.len.toNat ≤ p.payloadMax ∧ c.bytes.wf = true ∧ c.bytes.within p.payloadMax = true

/-- The framer's registers are in range: a phase code 0 to 9, a cycle index in [0, K), a transmit offset in
[0, PKT_LEN], and below PKT_LEN while a packet is being sent (10_state R28, R29, R31). -/
abbrev framerOk (p : Params) (f : Framer) : Prop :=
  f.phase.toNat ≤ 9 ∧ f.cyc < p.k ∧ f.txOff ≤ p.pktLen
    ∧ (f.phase = phTxWrite ∨ f.phase = phTxSleep → f.txOff < p.pktLen)

/-- The packet's payload length field (20_memory R46). -/
def payloadLen (m : Memory) : Nat := (readHalf m offLen).toNat

/-- The packet buffer is canonical and in bounds, its reserved field is 0, its payload length is at most
PAYLOAD_MAX, and every payload byte beyond that length is 0 (20_memory R44, R46, R48). -/
def pktOk (p : Params) (m : Memory) : Prop :=
  m.wf = true ∧ m.within p.pktLen = true
    ∧ readByte m offReserved = 0#8 ∧ readByte m (offReserved + 1) = 0#8
    ∧ payloadLen m ≤ p.payloadMax
    ∧ ∀ a, offPayload + payloadLen m ≤ a → a < p.span → readByte m a = 0#8

/-- The trailer is the little-endian CRC-32 of the span before it (40_crc R86, 43_framer R124). -/
def pktSealed (p : Params) (m : Memory) : Prop :=
  memRead m p.span Config.trailerLen = le32 (crc32 (memRead m 0 p.span))

/-- The phases from SEAL's end to the end of the packet's transmission. -/
def phaseIsSealed (p : BitVec 4) : Bool := p == phTxDecide || p == phTxWrite || p == phTxSleep || p == phClear

/-- The phases between CLEAR and ASSEMBLE, in which the payload is empty. -/
def phaseIsEmpty (p : BitVec 4) : Bool :=
  p == phStopped || p == phCycleStart || p == phTelem || p == phAssemble || p == phIdleSleep

/-- What holds of every state a run reaches. -/
structure Inv (s : State) : Prop where
  params : s.params.ok
  ring : ringOk s.params s.ring
  cap : capOk s.params s.cap
  framer : framerOk s.params s.framer
  pkt : pktOk s.params s.pkt
  /-- no phase writes the span between SEAL and the end of the transmission (20_memory R49). -/
  isSealed : phaseIsSealed s.framer.phase = true → pktSealed s.params s.pkt
  /-- "payload and payload length stay as CLEAR left them: all 0" (43_framer R123). -/
  emptied : phaseIsEmpty s.framer.phase = true → payloadLen s.pkt = 0
  /-- a sink has no pull strength (44_control R154). -/
  role : s.cfg.role = .sink → s.cfg.pull = 0#2
  /-- the status register holds a result code (10_state R38, 60_exceptions R178). -/
  code : s.errCode.toNat ≤ 3

/-! ### What the environment answers next -/

/-- The measurement port's answer to the i-th draw from here: the listed one, else a free one (00_scope R14). -/
def measAnswer (s : State) (i : Nat) : MeasAnswer :=
  match s.env.measIn[i]? with
  | some m => m
  | none => .answer (Config.freeMeas (s.env.measCount + (i - s.env.measIn.length)))

/-- The transport's answer to the next draw: the listed one, else a free one in range (43_framer R126). -/
def txAnswer (s : State) : Nat := (drawTx s).1

/-! ### Unread slot bytes -/

/-- Two slots that differ at most in data bytes at or beyond their common length: bytes no operation reads
(10_state R22, D12). -/
def slotAgree (x y : Slot) : Prop :=
  x.len = y.len ∧ x.line = y.line ∧ x.ty = y.ty ∧ x.part = y.part
    ∧ ∀ j, j < x.len.toNat → readByte x.data j = readByte y.data j

/-- Two states that differ at most in such bytes. -/
def sameButUnreadBytes (s t : State) : Prop :=
  t = { s with ring := { s.ring with slots := t.ring.slots } } ∧ List.Forall₂ slotAgree s.ring.slots t.ring.slots

/-! ### Events -/

/-- The byte stream the host receives: all TxBytes payloads in order (10_state R37). -/
def deliveredBytes : List Event → List Byte
  | [] => []
  | .txBytes bs :: rest => bs ++ deliveredBytes rest
  | _ :: rest => deliveredBytes rest

/-- The external ports of 60_exceptions R190. -/
inductive ExternalPort where
  | control | capture | measurement | transport | lineConfig | observer | timer
deriving DecidableEq, Repr

/-- The port an output event leaves by (60_exceptions R190). -/
def eventPort : Event → ExternalPort
  | .txBytes _ => .transport
  | .captureStop => .capture
  | .captureRearm => .capture
  | .selectCaptureLine _ => .lineConfig
  | .selectRole _ _ => .lineConfig
  | .notifyLineActive _ => .observer
  | .ctlResp _ _ => .control

/-- The events of the error taxonomy: labels only, no register holds one (60_exceptions R177). -/
inductive ErrorEvent where
  | measurementFailure | captureOverflow | truncatedCapture | transportStall | initFailure
deriving DecidableEq, Repr

/-- Their codes (60_exceptions R177). -/
def errorCode : ErrorEvent → Nat
  | .measurementFailure => 1
  | .captureOverflow => 2
  | .truncatedCapture => 3
  | .transportStall => 4
  | .initFailure => 5

/-! ### The words of each port, read as numbers -/

/-- Bits [7:0] of a word as a number (30_encoding R64). -/
def opcodeNat (w : Word) : Nat := w.toNat % 256

/-- Bits [31:8] of a word as a number (30_encoding R64). -/
def operandNat (w : Word) : Nat := w.toNat / 256

/-- The opcodes a port accepts (30_encoding R65, R69). -/
def opcodeAccepted (p : Port) (n : Nat) : Prop :=
  match p with
  | .control => 1 ≤ n ∧ n ≤ 8
  | .capture => 16 ≤ n ∧ n ≤ 18
  | .internal => n = 32 ∨ n = 33 ∨ n = 48 ∨ n = 49 ∨ n = 50

/-- A reserved bit of a control command's format is 1, in terms of the opcode n and the operand h (30_encoding R66). -/
def controlReservedSet (n h : Nat) : Prop :=
  (n = 1 ∧ 2 ≤ h) ∨ (n = 2 ∧ 1 ≤ h) ∨ (n = 3 ∧ 4 ≤ h) ∨ (n = 4 ∧ 8 ≤ h) ∨ (n = 5 ∧ 2 ≤ h) ∨ (n = 6 ∧ 2 ≤ h)
    ∨ (n = 8 ∧ 256 ≤ h)

/-- CTL_SET_ROLE with role = 0 and pull != 0 (30_encoding R66). -/
def controlSinkWithPull (n h : Nat) : Prop := n = 4 ∧ h % 2 = 0 ∧ h / 2 % 4 ≠ 0

/-- The command of a legal control word, field by field (30_encoding R66, R67). -/
def commandOf (n h : Nat) : Instr :=
  if n = 1 then .ctlStart (h % 2 == 1)
  else if n = 2 then .ctlReset
  else if n = 3 then .ctlSetLine (if h = 0 then .none else if h = 1 then .a else if h = 2 then .b else .both)
  else if n = 4 then .ctlSetRole (if h % 2 = 1 then .source else .sink) (BitVec.ofNat 2 (h / 2))
  else if n = 5 then .ctlSetOutmode (h % 2 == 1)
  else if n = 6 then .ctlSetAutostop (h % 2 == 1)
  else if n = 7 then .ctlSetIdle (BitVec.ofNat 24 h)
  else .ctlRead (BitVec.ofNat 8 h)

/-- The operation of a legal capture-port word (30_encoding R66, R67). -/
def captureOf (n h : Nat) : Instr :=
  if n = 16 then .capByte (BitVec.ofNat 8 h)
  else if n = 17 then .evRxComplete (BitVec.ofNat 8 h)
  else .evRxError (BitVec.ofNat 8 h)

/-- A reserved bit of an internal word is 1 (30_encoding R66): RING_PUT has bits [31:24] and [15:10], the others
every operand bit. -/
def internalReservedSet (n h : Nat) : Prop :=
  (n = 32 ∧ (65536 ≤ h ∨ h / 4 % 64 ≠ 0)) ∨ (n ≠ 32 ∧ h ≠ 0)

/-- The operation of a legal internal word with its side-band bytes (30_encoding R66, R67). -/
def internalOf (n h : Nat) (d : List Byte) : Instr :=
  if n = 32 then
    .ringPut (if h % 2 = 1 then .b else .a) (BitVec.ofNat 8 (h / 256)) (h / 2 % 2 == 1) d
  else if n = 33 then .ringTake
  else if n = 48 then .crcInit
  else if n = 49 then .crcHash d
  else .crcResult

/-- A command that ends with a result code and a value and changes nothing else (44_control R150). -/
def answered (s : State) (code : BitVec 8) (value : Word) : State :=
  { s with errCode := code, out := s.out ++ [.ctlResp code value] }

/-- Every word of a control opcode whose operand is n or more is rejected with RESERVED_FIELD and changes nothing else
(44_control R150, "Errors" of R151 to R158). -/
def rejectsOperandFrom (opcode n : Nat) : Prop :=
  ∀ (s : State) (w : Word), nextTurn s = .agent (.control w) → opcodeNat w = opcode → n ≤ operandNat w →
    step s = .next (answered (afterTurn s) 2#8 0#32)

/-- Every word of a capture opcode with a bit of [31:16] set is ignored ("Errors" of 42_producer R100 to R103). -/
def ignoresReservedBits (opcode : Nat) : Prop :=
  ∀ (s : State) (w : Word), nextTurn s = .agent (.capture w) → opcodeNat w = opcode → 256 ≤ operandNat w →
    step s = .next (afterTurn s)

/-- The opcode byte of an instruction's word, none for a phase. -/
def opcodeNumber (i : Instr) : Option Nat :=
  match encode i with
  | .word _ w _ => some (opcodeNat w)
  | .phase _ => none

/-- The queue of captures after a put: the oldest one goes where CAPACITY are unread (41_ring R88, R91). -/
def queueAfterPut (g : Ring) (c : Capture) : List Capture :=
  (if (unread g).length = capacity g then (unread g).tail else unread g) ++ [c]

/-! ### Who issues what -/

/-- Who issues an instruction: the host, the capture hardware, a unit of the block itself, or the framer as its own
next phase (30_encoding R65, 60_exceptions R189). -/
inductive Issuer where
  | host | captureHardware | ownUnit | framer
deriving DecidableEq, Repr

/-- The issuer of each instruction (30_encoding R65, R76). -/
def issuer : Instr → Issuer
  | .ctlStart _ => .host
  | .ctlReset => .host
  | .ctlSetLine _ => .host
  | .ctlSetRole _ _ => .host
  | .ctlSetOutmode _ => .host
  | .ctlSetAutostop _ => .host
  | .ctlSetIdle _ => .host
  | .ctlRead _ => .host
  | .capByte _ => .captureHardware
  | .evRxComplete _ => .captureHardware
  | .evRxError _ => .captureHardware
  | .ringPut _ _ _ _ => .ownUnit
  | .ringTake => .ownUnit
  | .crcInit => .ownUnit
  | .crcHash _ => .ownUnit
  | .crcResult => .ownUnit
  | .phaseStopped => .framer
  | .phaseCycleStart => .framer
  | .phaseTelem => .framer
  | .phaseAssemble => .framer
  | .phaseSeal => .framer
  | .phaseTxDecide => .framer
  | .phaseTxWrite => .framer
  | .phaseTxSleep => .framer
  | .phaseClear => .framer
  | .phaseIdleSleep => .framer

end Sys2Proof.Machine
end

