-- ==== Sys2Proof/Certificates/Slice0/Obligations.lean ====
section
/-! DEFINITION. The statements for the provers, each a Prop. `t` is the state after, `s` the state before; a frame is
said by naming the fields of `s` that `t` replaces. -/

open Sys2Proof Sys2Proof.Machine

/-! ### Reset and the invariant -/

/-- The power-on value of every field the table of 10_state R40 lists, for every value of the parameters of 00_scope
R7. The last clause is the model's choice: that State.reset is that state for the reference values (entry 11) and for
the opaque NSLOTS, at least 2 (entry 4), and IDLE_US_RESET (entry 5). -/
def Obligations.PowerOnValues : Prop :=
  (∀ (p : Params) (n : Nat) (idle : BitVec 24),
    (State.powerOn p n idle).params = p
    ∧ (State.powerOn p n idle).ring.w = 0 ∧ (State.powerOn p n idle).ring.r = 0
    ∧ (State.powerOn p n idle).ring.nslots = n
    ∧ (∀ i, i < n →
        (getSlot (State.powerOn p n idle).ring i).len = 0#16 ∧ (getSlot (State.powerOn p n idle).ring i).line = .a
        ∧ (getSlot (State.powerOn p n idle).ring i).ty = 0#8 ∧ (getSlot (State.powerOn p n idle).ring i).part = false)
    ∧ (State.powerOn p n idle).ring.lostPending = false ∧ (State.powerOn p n idle).ring.drops = 0#32
    ∧ (∀ a, readByte (State.powerOn p n idle).cap.bytes a = 0#8) ∧ (State.powerOn p n idle).cap.len = 0#16
    ∧ (State.powerOn p n idle).crc = 0xFFFFFFFF#32
    ∧ (State.powerOn p n idle).framer =
        { phase := 0#4, seq := 0#32, cyc := 0, pending0 := false, txOff := 0, stall := 0#32, aborted := false
          wake := false, autostopped := false }
    ∧ (∀ a, readByte (State.powerOn p n idle).pkt a = 0#8)
    ∧ (State.powerOn p n idle).telem =
        { tel := { ccLineA := 0#16, ccLineB := 0#16, controlCurrent := 0#16, busVoltage := 0#16, busCurrent := 0#16 }
          measErr := 0#5, active := .a }
    ∧ (State.powerOn p n idle).cfg =
        { run := false, lineSel := .none, role := .sink, pull := 0#2, suppress := false, autostop := true
          idleUs := idle }
    ∧ (State.powerOn p n idle).errCode = 0#8 ∧ (State.powerOn p n idle).out = [])
  ∧ State.reset = State.powerOn Params.reference Config.nslots Config.idleUsReset ∧ 2 ≤ Config.nslots

/-- 00_scope R7: the reference values of the parameters, the ones derived from them, and the constraints, which the
reference values meet. That State.reset takes the reference values is the model's choice of a default (entry 11). -/
def Obligations.ReferenceParametersMeetTheConstraints : Prop :=
  State.reset.params
      = { k := 10, winLo := 500, winHi := 2000, span := 508, stallMax := 100, stallSleepUs := 500, protoVersion := 1#5 }
  ∧ State.reset.params.ok ∧ State.reset.params.takeCycles = 8 ∧ State.reset.params.payloadMax = 488
  ∧ State.reset.params.pktLen = 512 ∧ Config.hdrLen = 20 ∧ Config.trailerLen = 4 ∧ 2 ≤ State.reset.ring.nslots
  ∧ (∀ p : Params, p.takeCycles = p.k - 2 ∧ p.payloadMax = p.span - 20 ∧ p.pktLen = p.span + 4)
  ∧ ∀ p : Params, p.ok ↔
      3 ≤ p.k ∧ p.winLo < p.winHi ∧ p.winHi ≤ 32767 ∧ 20 < p.span ∧ p.span - 20 ≤ 65535 ∧ p.stallMax < 2 ^ 32 - 1

/-- The invariant holds after power-on reset, with the reference parameters and with any others that meet the
constraints of 00_scope R7. -/
def Obligations.ResetMeetsInvariant : Prop :=
  Inv State.reset ∧ ∀ (p : Params) (n : Nat) (idle : BitVec 24), p.ok → 2 ≤ n → Inv (State.powerOn p n idle)

/-- Every step of every agent keeps the invariant: parameters within their constraints, ring indices and lengths in
range, every byte space canonical and in bounds, phase, cycle index and transmit offset in range, reserved packet
field 0, zero padding, a sealed trailer while a packet is sent, an empty payload between CLEAR and ASSEMBLE. -/
def Obligations.StepKeepsInvariant : Prop :=
  ∀ s t : State, Inv s → step s = .next t → Inv t

/-- No step changes a parameter or the number of slots (00_scope R7, R11). -/
def Obligations.StepKeepsParameters : Prop :=
  ∀ s t : State, step s = .next t → t.params = s.params ∧ t.ring.nslots = s.ring.nslots

/-! ### Encoding -/

/-- Decoding the encoding of a well-formed instruction gives it back, for every instruction and every operand. -/
def Obligations.DecodeEncodeRoundTrip : Prop :=
  ∀ (p : Params) (i : Instr), i.wellFormed p = true → decode (encode i) = some i

/-- A word or phase code that decodes to an instruction is that instruction's encoding: no bit of it is free. -/
def Obligations.DecodedWordsEncodeBack : Prop :=
  (∀ (p : Port) (w : Word) (d : List Byte) (i : Instr), decodeAt p w d = .ok i → ∃ d', encode i = .word p w d')
  ∧ ∀ (c : BitVec 4) (i : Instr), decodePhase c = some i → encode i = .phase c

/-- 30_encoding R69: which opcode bytes each port accepts, over all words. -/
def Obligations.OpcodeMapIsExact : Prop :=
  ∀ (p : Port) (w : Word) (d : List Byte),
    decodeAt p w d = .error .illegalOpcode ↔ ¬ opcodeAccepted p (opcodeNat w)

/-- The word column of the table of 30_encoding R77, for every operand, and the port of R65. -/
def Obligations.WordsAreAsTabulated : Prop :=
  (∀ run, encode (.ctlStart run) = .word .control (if run then 0x00000101#32 else 0x00000001#32) [])
  ∧ encode .ctlReset = .word .control 0x00000002#32 []
  ∧ encode (.ctlSetLine .none) = .word .control 0x00000003#32 []
  ∧ encode (.ctlSetLine .a) = .word .control 0x00000103#32 []
  ∧ encode (.ctlSetLine .b) = .word .control 0x00000203#32 []
  ∧ encode (.ctlSetLine .both) = .word .control 0x00000303#32 []
  ∧ encode (.ctlSetRole .sink 0#2) = .word .control 0x00000004#32 []
  ∧ (∀ p : BitVec 2, encode (.ctlSetRole .source p) = .word .control (0x00000104#32 ||| p.setWidth 32 <<< 9) [])
  ∧ (∀ on, encode (.ctlSetOutmode on) = .word .control (if on then 0x00000105#32 else 0x00000005#32) [])
  ∧ (∀ on, encode (.ctlSetAutostop on) = .word .control (if on then 0x00000106#32 else 0x00000006#32) [])
  ∧ (∀ us : BitVec 24, encode (.ctlSetIdle us) = .word .control (us.setWidth 32 <<< 8 ||| 0x07#32) [])
  ∧ (∀ idx : BitVec 8, encode (.ctlRead idx) = .word .control (idx.setWidth 32 <<< 8 ||| 0x08#32) [])
  ∧ (∀ b : BitVec 8, encode (.capByte b) = .word .capture (b.setWidth 32 <<< 8 ||| 0x10#32) [])
  ∧ (∀ ty : BitVec 8, encode (.evRxComplete ty) = .word .capture (ty.setWidth 32 <<< 8 ||| 0x11#32) [])
  ∧ (∀ ty : BitVec 8, encode (.evRxError ty) = .word .capture (ty.setWidth 32 <<< 8 ||| 0x12#32) [])
  ∧ (∀ (line : Line) (ty : BitVec 8) (part : Bool) (d : List Byte),
      encode (.ringPut line ty part d)
        = .word .internal
            (ty.setWidth 32 <<< 16 ||| (if part then 0x200#32 else 0#32) ||| (if line = .b then 0x100#32 else 0#32)
              ||| 0x20#32) d)
  ∧ encode .ringTake = .word .internal 0x00000021#32 []
  ∧ encode .crcInit = .word .internal 0x00000030#32 []
  ∧ (∀ d, encode (.crcHash d) = .word .internal 0x00000031#32 d)
  ∧ encode .crcResult = .word .internal 0x00000032#32 []

/-- Nine lines: forms of the table of 30_encoding R77 and pseudo-operations of R78 with the words they assemble to. That
a line with an operand out of range assembles to nothing is the model's choice (entry 16). -/
def Obligations.AssemblerReadsNineLines : Prop :=
  assembleLine "start 1" = some [.word .control 0x00000101#32 []]
  ∧ assembleLine "stop ; a comment" = some [.word .control 0x00000001#32 []]
  ∧ assembleLine "SETLINE both" = some [.word .control 0x00000303#32 []]
  ∧ assembleLine "setrole source, 2" = some [.word .control 0x00000504#32 []]
  ∧ assembleLine "idle 0x3E8" = some [.word .control 0x0003E807#32 []]
  ∧ assembleLine "idle 16777216" = none
  ∧ assembleLine "read ERR_CODE" = some [.word .control 0x00001208#32 []]
  ∧ assembleLine "put b, 2, 1, [0x21, 0x22]" = some [.word .internal 0x00020320#32 [0x21#8, 0x22#8]]
  ∧ assembleLine "caperr 6, [5, 6]"
      = some [.word .capture 0x00000510#32 [], .word .capture 0x00000610#32 [], .word .capture 0x00000612#32 []]

/-- Words of 30_encoding R77 and phase codes of R76, one or more of every family, decode to what they stand for. -/
def Obligations.WrittenOutWordsDecode : Prop :=
  decodeAt .control 0x00000101#32 [] = .ok (.ctlStart true)
  ∧ decodeAt .control 0x00000203#32 [] = .ok (.ctlSetLine .b)
  ∧ decodeAt .control 0x00000504#32 [] = .ok (.ctlSetRole .source 2#2)
  ∧ decodeAt .control 0x0003E807#32 [] = .ok (.ctlSetIdle 1000#24)
  ∧ decodeAt .capture 0x00007E10#32 [] = .ok (.capByte 0x7E#8)
  ∧ decodeAt .capture 0x00000512#32 [] = .ok (.evRxError 5#8)
  ∧ decodeAt .internal 0x00020320#32 [0x21#8, 0x22#8] = .ok (.ringPut .b 2#8 true [0x21#8, 0x22#8])
  ∧ decodeAt .internal 0x00000032#32 [] = .ok .crcResult
  ∧ decodePhase 8#4 = some .phaseClear

/-- 30_encoding R76: the phase each code of the phase register names, and BadPhase for the codes 10 to 15. -/
def Obligations.PhaseCodesNamePhases : Prop :=
  decodePhase 0#4 = some .phaseStopped ∧ decodePhase 1#4 = some .phaseCycleStart
  ∧ decodePhase 2#4 = some .phaseTelem ∧ decodePhase 3#4 = some .phaseAssemble
  ∧ decodePhase 4#4 = some .phaseSeal ∧ decodePhase 5#4 = some .phaseTxDecide
  ∧ decodePhase 6#4 = some .phaseTxWrite ∧ decodePhase 7#4 = some .phaseTxSleep
  ∧ decodePhase 8#4 = some .phaseClear ∧ decodePhase 9#4 = some .phaseIdleSleep
  ∧ ∀ s : State, nextTurn s = .agent .framer → 10 ≤ s.framer.phase.toNat → step s = .fault .badPhase

/-! ### The step -/

/-- A turn whose word or phase decodes runs that instruction in the state with the turn taken, and taking a turn
changes nothing but the list of turns (or the count of free ones). -/
def Obligations.StepRunsDecoded : Prop :=
  (∀ (s : State) (w : Word) (i : Instr), nextTurn s = .agent (.control w) → decodeAt .control w [] = .ok i →
    step s = exec i (afterTurn s))
  ∧ (∀ (s : State) (w : Word) (i : Instr), nextTurn s = .agent (.capture w) → decodeAt .capture w [] = .ok i →
    step s = exec i (afterTurn s))
  ∧ (∀ (s : State) (w : Word) (d : List Byte) (i : Instr), nextTurn s = .internal w d →
    decodeAt .internal w d = .ok i → step s = exec i (afterTurn s))
  ∧ (∀ (s : State) (i : Instr), nextTurn s = .agent .framer → decodePhase s.framer.phase = some i →
    step s = exec i (afterTurn s))
  ∧ (∀ s : State, afterTurn s =
      { s with env := { s.env with turns := s.env.turns.tail, turnCount := (afterTurn s).env.turnCount } })

/-- 44_control R150 and 60_exceptions R179, over every 32-bit word on the control port: an illegal opcode and a
reserved field are answered with their code and change nothing else, every other word runs its command with the
operands of 30_encoding R66. -/
def Obligations.ControlPortHandlesEveryWord : Prop :=
  ∀ (s : State) (w : Word), nextTurn s = .agent (.control w) →
    (¬ opcodeAccepted .control (opcodeNat w) → step s = .next (answered (afterTurn s) 1#8 0#32))
    ∧ (opcodeAccepted .control (opcodeNat w) →
        controlReservedSet (opcodeNat w) (operandNat w) ∨ controlSinkWithPull (opcodeNat w) (operandNat w) →
        step s = .next (answered (afterTurn s) 2#8 0#32))
    ∧ (opcodeAccepted .control (opcodeNat w) →
        ¬ (controlReservedSet (opcodeNat w) (operandNat w) ∨ controlSinkWithPull (opcodeNat w) (operandNat w)) →
        step s = exec (commandOf (opcodeNat w) (operandNat w)) (afterTurn s))
    ∧ ∃ t code value, step s = .next t ∧ t.errCode = code ∧ t.out.getLast? = some (.ctlResp code value)
        ∧ (opcodeNat w ≠ 8 → value = 0#32)

/-- 60_exceptions R180, over every 32-bit word on the capture port. -/
def Obligations.CapturePortIgnoresOtherWords : Prop :=
  ∀ (s : State) (w : Word), nextTurn s = .agent (.capture w) →
    (¬ opcodeAccepted .capture (opcodeNat w) ∨ 256 ≤ operandNat w → step s = .next (afterTurn s))
    ∧ (opcodeAccepted .capture (opcodeNat w) → operandNat w < 256 →
        step s = exec (captureOf (opcodeNat w) (operandNat w)) (afterTurn s))

/-- 30_encoding R71 and 60_exceptions R181, over every internal word: a nonzero reserved bit, over-long RING_PUT data
and units 4 to 15 are BadInternalOp before any state is written; a legal word runs its operation. That words of units
0 and 1 and the unassigned opcodes of units 2 and 3 fault too is the model's choice (entry 9), and so is that
RING_TAKE, CRC_INIT and CRC_RESULT run as they do without one when a side-band list comes with them (entry 10). -/
def Obligations.InternalWordsFaultUnlessLegal : Prop :=
  ∀ (s : State) (w : Word) (d : List Byte), nextTurn s = .internal w d →
    (¬ opcodeAccepted .internal (opcodeNat w) → step s = .fault .badInternalOp)
    ∧ (opcodeAccepted .internal (opcodeNat w) → internalReservedSet (opcodeNat w) (operandNat w) →
        step s = .fault .badInternalOp)
    ∧ (opcodeNat w = 32 → s.params.payloadMax < d.length → step s = .fault .badInternalOp)
    ∧ (opcodeAccepted .internal (opcodeNat w) → ¬ internalReservedSet (opcodeNat w) (operandNat w) →
        step s = exec (internalOf (opcodeNat w) (operandNat w) d) (afterTurn s))

/-- 60_exceptions R181: in a state that meets the invariant a step faults only as that table lists, BadPhase cannot
happen, and each listed condition does fault; no step is ever refused. -/
def Obligations.FaultsAreTheModelFaults : Prop :=
  (∀ (s : State) (f : Fault), Inv s → step s = .fault f →
    (f = .badInternalOp ∧ ∃ w d, nextTurn s = .internal w d)
    ∨ (f = .transportOverrun ∧ nextTurn s = .agent .framer ∧ s.framer.phase = 6#4
        ∧ s.params.pktLen - s.framer.txOff < txAnswer s)
    ∨ (f = .badMeasurement ∧ nextTurn s = .agent .framer ∧ s.framer.phase = 2#4
        ∧ ∃ i, i < 5 ∧ measAnswer s i = .outOfContract))
  ∧ (∀ s : State, nextTurn s = .agent .framer → s.framer.phase = 6#4 →
      s.params.pktLen - s.framer.txOff < txAnswer s → step s = .fault .transportOverrun)
  ∧ (∀ (s : State) (i : Nat), nextTurn s = .agent .framer → s.framer.phase = 2#4 → i < 5 →
      measAnswer s i = .outOfContract → step s = .fault .badMeasurement)
  ∧ (∀ (s : State) (w : Word) (d : List Byte), nextTurn s = .internal w d →
      64 ≤ opcodeNat w ∨ (opcodeAccepted .internal (opcodeNat w) ∧ internalReservedSet (opcodeNat w) (operandNat w))
        ∨ (opcodeNat w = 32 ∧ s.params.payloadMax < d.length) →
      step s = .fault .badInternalOp)
  ∧ (∀ s : State, nextTurn s = .agent .framer → 10 ≤ s.framer.phase.toNat → step s = .fault .badPhase)
  ∧ ∀ (s : State) (r : Refusal), step s ≠ .refused r

/-- 43_framer R130, the transition table: where each framer step goes; a step of any other agent leaves the phase. -/
def Obligations.PhaseTransitions : Prop :=
  (∀ s t : State, nextTurn s = .agent .framer → step s = .next t →
    (s.framer.phase = 0#4 → t.framer.phase = if s.cfg.run then 1#4 else 0#4)
    ∧ (s.framer.phase = 1#4 →
        t.framer.phase = if s.cfg.run then (if s.framer.cyc = 0 then 2#4 else 3#4) else 0#4)
    ∧ (s.framer.phase = 2#4 → t.framer.phase = 3#4)
    ∧ (s.framer.phase = 3#4 → t.framer.phase = 4#4)
    ∧ (s.framer.phase = 4#4 → t.framer.phase = 5#4)
    ∧ (s.framer.phase = 5#4 →
        t.framer.phase = if payloadLen s.pkt ≠ 0 ∨ s.cfg.suppress = false then 6#4 else 8#4)
    ∧ (s.framer.phase = 6#4 → 0 < txAnswer s →
        t.framer.phase = if s.framer.txOff + txAnswer s = s.params.pktLen then 8#4 else 6#4)
    ∧ (s.framer.phase = 6#4 → txAnswer s = 0 →
        t.framer.phase
          = if s.params.stallMax < t.framer.stall.toNat ∧ s.cfg.autostop = true then 8#4 else 7#4)
    ∧ (s.framer.phase = 7#4 → t.framer.phase = 6#4)
    ∧ (s.framer.phase = 8#4 →
        t.framer.phase = if s.framer.aborted then 0#4 else if s.framer.pending0 then 1#4 else 9#4)
    ∧ (s.framer.phase = 9#4 → t.framer.phase = 1#4))
  ∧ ∀ s t : State, nextTurn s ≠ .agent .framer → step s = .next t →
      (∀ w d, nextTurn s = .internal w d → t.framer.phase = s.framer.phase)
      ∧ (∀ w, nextTurn s = .agent (.control w) ∨ nextTurn s = .agent (.capture w) →
          t.framer.phase = s.framer.phase)

/-- 10_state R37 and 60_exceptions R190: the output history is only appended to, and each agent's step appends events
of its own ports only. -/
def Obligations.EventsLeaveByTheirPorts : Prop :=
  ∀ s t : State, step s = .next t →
    ∃ es, t.out = s.out ++ es
      ∧ (∀ w, nextTurn s = .agent (.control w) →
          ∀ e ∈ es, eventPort e = .control ∨ eventPort e = .lineConfig ∨ eventPort e = .observer)
      ∧ (∀ w, nextTurn s = .agent (.capture w) → ∀ e ∈ es, eventPort e = .capture)
      ∧ (nextTurn s = .agent .framer → ∀ e ∈ es, eventPort e = .transport)
      ∧ (∀ w d, nextTurn s = .internal w d → es = [])

/-- 60_exceptions R177: the labels of the error events and exactly what each records: the error bit of each channel, the
drop that a put on a full ring records (issued on its own or inside either capture event), the partial bit of the slot
at the write index, the stall count and the auto-stop. Of INIT_FAILURE, which nothing raises, only the label. -/
def Obligations.ErrorEventsLeaveTheirTrace : Prop :=
  [ErrorEvent.measurementFailure, .captureOverflow, .truncatedCapture, .transportStall, .initFailure].map errorCode
    = [1, 2, 3, 4, 5]
  ∧ (∀ (s t : State) (i : Nat), i < 5 → exec .phaseTelem s = .next t →
      (t.telem.measErr.getLsbD i = true ↔ measAnswer s i = .answer none))
  ∧ (∀ (line : Line) (ty : BitVec 8) (part : Bool) (d : List Byte) (i : Instr) (s : State),
      i = .ringPut line ty part d ∨ i = .evRxComplete ty ∨ i = .evRxError ty →
      d.length ≤ s.params.payloadMax → s.cap.len.toNat ≤ s.params.payloadMax →
      (s.ring.w + 1) % s.ring.nslots = s.ring.r →
      ∃ t, exec i s = .next t ∧ t.ring.lostPending = true
        ∧ t.ring.drops.toNat = min (s.ring.drops.toNat + 1) (2 ^ 32 - 1))
  ∧ (∀ (ty : BitVec 8) (s : State), ringOk s.params s.ring → capOk s.params s.cap →
      (∃ t, exec (.evRxError ty) s = .next t ∧ (getSlot t.ring s.ring.w).part = true)
      ∧ ∃ t, exec (.evRxComplete ty) s = .next t ∧ (getSlot t.ring s.ring.w).part = false)
  ∧ ∀ s : State, txAnswer s = 0 →
      ∃ t, exec .phaseTxWrite s = .next t
        ∧ t.framer.stall.toNat = min (s.framer.stall.toNat + 1) (2 ^ 32 - 1)
        ∧ t.framer.autostopped
          = (s.framer.autostopped || (decide (s.params.stallMax < t.framer.stall.toNat) && s.cfg.autostop))

/-! ### Who writes what -/

/-- 43_framer R136 and 10_state R31, R34, R35: what only framer phases write, with the two resets of the numbering. -/
def Obligations.FramerOwnsItsState : Prop :=
  ∀ (i : Instr) (s t : State), issuer i ≠ .framer → exec i s = .next t →
    t.pkt = s.pkt ∧ t.telem = s.telem
    ∧ t.framer.phase = s.framer.phase ∧ t.framer.txOff = s.framer.txOff ∧ t.framer.stall = s.framer.stall
    ∧ t.framer.pending0 = s.framer.pending0 ∧ t.framer.aborted = s.framer.aborted
    ∧ (i ≠ .ctlStart true → i ≠ .ctlReset → t.framer.seq = s.framer.seq ∧ t.framer.cyc = s.framer.cyc)
    ∧ (issuer i ≠ .host → t.cfg = s.cfg ∧ t.errCode = s.errCode ∧ t.framer.autostopped = s.framer.autostopped)

/-- 44_control R160: which instructions write Runtime Configuration; the framer's one write is auto-stop's. -/
def Obligations.ConfigurationWriters : Prop :=
  (∀ (i : Instr) (s t : State), issuer i ≠ .host → i ≠ .phaseTxWrite → exec i s = .next t → t.cfg = s.cfg)
  ∧ (∀ s t : State, exec .phaseTxWrite s = .next t →
      t.cfg = s.cfg
      ∨ (t.cfg = { s.cfg with run := false } ∧ s.cfg.autostop = true ∧ txAnswer s = 0
          ∧ s.params.stallMax < t.framer.stall.toNat))

/-- 10_state R19, R21, R25, R26, R38: who writes the ring, the capture buffer, the CRC register and the status
register. -/
def Obligations.RingBufferCrcWriters : Prop :=
  ∀ (i : Instr) (s t : State), exec i s = .next t →
    ((∀ ty, i ≠ .evRxComplete ty) → (∀ ty, i ≠ .evRxError ty) → (∀ l ty p d, i ≠ .ringPut l ty p d) →
      i ≠ .ringTake → i ≠ .phaseAssemble → i ≠ .ctlReset → t.ring = s.ring)
    ∧ ((∀ b, i ≠ .capByte b) → (∀ ty, i ≠ .evRxComplete ty) → (∀ ty, i ≠ .evRxError ty) → t.cap = s.cap)
    ∧ (i ≠ .crcInit → (∀ d, i ≠ .crcHash d) → i ≠ .phaseSeal → t.crc = s.crc)
    ∧ (issuer i ≠ .host → t.errCode = s.errCode)

/-- 60_exceptions R186: a word on the capture port changes no framer state but the wake latch. -/
def Obligations.ProducerPreemptsWithoutTrace : Prop :=
  ∀ (s t : State) (w : Word), nextTurn s = .agent (.capture w) → step s = .next t →
    t.framer = { s.framer with wake := t.framer.wake } ∧ t.pkt = s.pkt ∧ t.telem = s.telem ∧ t.cfg = s.cfg
    ∧ t.crc = s.crc ∧ t.errCode = s.errCode ∧ (s.framer.wake = true → t.framer.wake = true)

/-! ### The Control Surface -/

/-- 44_control R151: start(true) and start(false), each the whole next state. -/
def Obligations.StartRestartsNumberingStopOnlyClearsRun : Prop :=
  (∀ run, opcodeNumber (.ctlStart run) = some 1) ∧ rejectsOperandFrom 1 2
  ∧ (∀ s : State, exec (.ctlStart true) s = .next
    { s with
      cfg := { s.cfg with run := true }
      framer := { s.framer with seq := 0#32, cyc := 0, autostopped := false }
      errCode := 0#8
      out := s.out ++ [.notifyLineActive s.cfg.lineSel, .ctlResp 0#8 0#32] })
  ∧ ∀ s : State, exec (.ctlStart false) s = .next
    { s with cfg := { s.cfg with run := false }, errCode := 0#8, out := s.out ++ [.ctlResp 0#8 0#32] }

/-- 44_control R152, R159 and 41_ring R90: what CTL_RESET clears, slot by slot, and what it leaves. -/
def Obligations.ResetCommandEmptiesRing : Prop :=
  opcodeNumber .ctlReset = some 2 ∧ rejectsOperandFrom 2 1
  ∧ ∀ s : State, ∃ t, exec .ctlReset s = .next t
    ∧ t.ring.w = 0 ∧ t.ring.r = 0 ∧ t.ring.lostPending = false ∧ t.ring.drops = 0#32
    ∧ t.ring.nslots = s.ring.nslots
    ∧ (∀ i, i < s.ring.nslots →
        getSlot t.ring i = { getSlot s.ring i with len := 0#16, line := .a, ty := 0#8, part := false })
    ∧ unread t.ring = []
    ∧ (∃ u, exec .ringTake t = .next u ∧ u.env.opResult = .taken none)
    ∧ t = { s with
            ring := t.ring
            framer := { s.framer with seq := 0#32, cyc := 0 }
            errCode := 0#8
            out := s.out ++ [.ctlResp 0#8 0#32] }

/-- 44_control R153, R155, R156, R157: each setter writes its one field, as the whole next state. -/
def Obligations.SettersWriteOneField : Prop :=
  (∀ (sel : LineSel) (b : Bool) (us : BitVec 24),
    opcodeNumber (.ctlSetLine sel) = some 3 ∧ opcodeNumber (.ctlSetOutmode b) = some 5
    ∧ opcodeNumber (.ctlSetAutostop b) = some 6 ∧ opcodeNumber (.ctlSetIdle us) = some 7)
  ∧ rejectsOperandFrom 3 4 ∧ rejectsOperandFrom 5 2 ∧ rejectsOperandFrom 6 2
  ∧ (∀ (sel : LineSel) (s : State), exec (.ctlSetLine sel) s = .next
    { s with
      cfg := { s.cfg with lineSel := sel }, errCode := 0#8
      out := s.out ++ [.selectCaptureLine sel, .ctlResp 0#8 0#32] })
  ∧ (∀ (mode : Bool) (s : State), exec (.ctlSetOutmode mode) s = .next
      { s with cfg := { s.cfg with suppress := mode }, errCode := 0#8, out := s.out ++ [.ctlResp 0#8 0#32] })
  ∧ (∀ (on : Bool) (s : State), exec (.ctlSetAutostop on) s = .next
      { s with cfg := { s.cfg with autostop := on }, errCode := 0#8, out := s.out ++ [.ctlResp 0#8 0#32] })
  ∧ (∀ (us : BitVec 24) (s : State), exec (.ctlSetIdle us) s = .next
      { s with cfg := { s.cfg with idleUs := us }, errCode := 0#8, out := s.out ++ [.ctlResp 0#8 0#32] })

/-- 44_control R154: select-role, with RESERVED_FIELD for a word of a sink that carries a pull strength (R150). -/
def Obligations.SetRoleForwardsOrRejects : Prop :=
  (∀ role pull, opcodeNumber (.ctlSetRole role pull) = some 4) ∧ rejectsOperandFrom 4 8
  ∧ (∀ (s : State) (w : Word), nextTurn s = .agent (.control w) → opcodeNat w = 4 → operandNat w % 2 = 0 →
      operandNat w / 2 % 4 ≠ 0 → step s = .next (answered (afterTurn s) 2#8 0#32))
  ∧ ∀ (role : Role) (pull : BitVec 2) (s : State), role = .source ∨ pull = 0#2 →
      exec (.ctlSetRole role pull) s = .next
        { s with
          cfg := { s.cfg with role := role, pull := pull }, errCode := 0#8
          out := s.out ++ [.selectRole role pull, .ctlResp 0#8 0#32] }

/-- The model's choice (entry 15) for a case no word reaches: CTL_SET_ROLE's meaning called with a sink and a pull
strength answers as R150 does for the word. -/
def Obligations.SinkWithPullCalledDirectlyIsRejected : Prop :=
  ∀ (pull : BitVec 2) (s : State), pull ≠ 0#2 →
    exec (.ctlSetRole .sink pull) s = .next (answered s 2#8 0#32)

/-- 44_control R158 over the REG map of 30_encoding R74: every register's value (the bits of STATUS and CONFIG are
stated in StatusAndConfigBits), and 0 with BAD_REG_INDEX for every unassigned index. Of a count of 2^32 or more R74
states no 32-bit value; the model's is free (entry 17), and all that is stated of it is that the read answers, and
answers the same when repeated. -/
def Obligations.ReadAnswersRegisterMap : Prop :=
  (∀ idx, opcodeNumber (.ctlRead idx) = some 8) ∧ rejectsOperandFrom 8 256
  ∧ ∀ s : State,
    (∀ idx : BitVec 8, ∃ code value, exec (.ctlRead idx) s = .next (answered s code value)
      ∧ (idx.toNat < 0x13 → code = 0#8)
      ∧ (idx ≠ 0x12#8 →
          exec (.ctlRead idx) (answered s code value) = .next (answered (answered s code value) code value)))
    ∧ exec (.ctlRead 0x00#8) s = .next (answered s 0#8 (statusWord s))
    ∧ exec (.ctlRead 0x01#8) s = .next (answered s 0#8 (configWord s.cfg))
    ∧ exec (.ctlRead 0x02#8) s = .next (answered s 0#8 (s.cfg.idleUs.setWidth 32))
    ∧ exec (.ctlRead 0x03#8) s = .next (answered s 0#8 s.framer.seq)
    ∧ (s.ring.w < 2 ^ 32 → exec (.ctlRead 0x04#8) s = .next (answered s 0#8 (BitVec.ofNat 32 s.ring.w)))
    ∧ (s.ring.r < 2 ^ 32 → exec (.ctlRead 0x05#8) s = .next (answered s 0#8 (BitVec.ofNat 32 s.ring.r)))
    ∧ (∀ n : Nat, n = (if s.ring.r ≤ s.ring.w then s.ring.w - s.ring.r else s.ring.w + s.ring.nslots - s.ring.r) →
        ringOk s.params s.ring → n < 2 ^ 32 →
        exec (.ctlRead 0x06#8) s = .next (answered s 0#8 (BitVec.ofNat 32 n)))
    ∧ exec (.ctlRead 0x07#8) s = .next (answered s 0#8 s.ring.drops)
    ∧ exec (.ctlRead 0x08#8) s = .next (answered s 0#8 s.framer.stall)
    ∧ (s.framer.cyc < 2 ^ 32 → exec (.ctlRead 0x09#8) s = .next (answered s 0#8 (BitVec.ofNat 32 s.framer.cyc)))
    ∧ exec (.ctlRead 0x0A#8) s = .next (answered s 0#8 (s.telem.tel.ccLineA.setWidth 32))
    ∧ exec (.ctlRead 0x0B#8) s = .next (answered s 0#8 (s.telem.tel.ccLineB.setWidth 32))
    ∧ exec (.ctlRead 0x0C#8) s = .next (answered s 0#8 (s.telem.tel.controlCurrent.setWidth 32))
    ∧ exec (.ctlRead 0x0D#8) s = .next (answered s 0#8 (s.telem.tel.busVoltage.setWidth 32))
    ∧ exec (.ctlRead 0x0E#8) s = .next (answered s 0#8 (s.telem.tel.busCurrent.setWidth 32))
    ∧ exec (.ctlRead 0x0F#8) s = .next (answered s 0#8 s.crc)
    ∧ exec (.ctlRead 0x10#8) s = .next (answered s 0#8 (s.cap.len.setWidth 32))
    ∧ (s.framer.txOff < 2 ^ 32 → exec (.ctlRead 0x11#8) s = .next (answered s 0#8 (BitVec.ofNat 32 s.framer.txOff)))
    ∧ exec (.ctlRead 0x12#8) s = .next (answered s 0#8 (s.errCode.setWidth 32))
    ∧ ∀ idx : BitVec 8, 0x13 ≤ idx.toNat → exec (.ctlRead idx) s = .next (answered s 3#8 0#32)

/-- 30_encoding R75: the bits of STATUS and of CONFIG, as CTL_READ answers them. -/
def Obligations.StatusAndConfigBits : Prop :=
  (∀ s : State, ∃ v, exec (.ctlRead 0x00#8) s = .next (answered s 0#8 v)
    ∧ v.getLsbD 0 = s.cfg.run ∧ v.getLsbD 1 = decide (s.framer.phase ≠ 0#4)
    ∧ v.getLsbD 2 = decide (s.ring.w = s.ring.r) ∧ v.getLsbD 3 = s.ring.lostPending
    ∧ v.getLsbD 4 = s.framer.autostopped ∧ v.getLsbD 5 = s.framer.wake
    ∧ v.getLsbD 6 = decide (s.telem.active = .b) ∧ v.extractLsb' 7 5 = s.telem.measErr
    ∧ v.extractLsb' 12 4 = s.framer.phase ∧ v.getLsbD 16 = s.framer.pending0
    ∧ v.getLsbD 17 = s.framer.aborted ∧ v.extractLsb' 18 14 = 0#14)
  ∧ ∀ s : State, ∃ v, exec (.ctlRead 0x01#8) s = .next (answered s 0#8 v)
    ∧ v.getLsbD 0 = decide (s.cfg.lineSel = .a ∨ s.cfg.lineSel = .both)
    ∧ v.getLsbD 1 = decide (s.cfg.lineSel = .b ∨ s.cfg.lineSel = .both)
    ∧ v.getLsbD 2 = decide (s.cfg.role = .source) ∧ v.extractLsb' 3 2 = s.cfg.pull
    ∧ v.getLsbD 5 = s.cfg.suppress ∧ v.getLsbD 6 = s.cfg.autostop ∧ v.extractLsb' 7 25 = 0#25

/-! ### The Integrity Coder -/

/-- 40_crc R83: CRC_INIT. -/
def Obligations.CrcInitSetsState : Prop :=
  decodeAt .internal 0x00000030#32 [] = .ok .crcInit
  ∧ (∀ s : State, exec .crcInit s = .next { s with crc := 0xFFFFFFFF#32 })
  ∧ ∀ (s : State) (d : List Byte),
      runInstrs [.crcInit, .crcInit] s = exec .crcInit s ∧ runInstrs [.crcHash d, .crcInit] s = exec .crcInit s

/-- 40_crc R84 over the byte fold of R82: CRC_HASH folds its bytes, nothing folds nothing, calls compose, and the
example of the ASCII bytes "123456789". -/
def Obligations.CrcHashFoldsAndComposes : Prop :=
  (∀ d : List Byte, decodeAt .internal 0x00000031#32 d = .ok (.crcHash d))
  ∧ (∀ (s : State) (d : List Byte), exec (.crcHash d) s = .next { s with crc := crcFold s.crc d })
  ∧ (∀ s : State, exec (.crcHash []) s = .next s)
  ∧ (∀ (s : State) (a b : List Byte), runInstrs [.crcHash a, .crcHash b] s = exec (.crcHash (a ++ b)) s)
  ∧ crcFold 0xFFFFFFFF#32 [0x31#8, 0x32#8, 0x33#8, 0x34#8, 0x35#8, 0x36#8, 0x37#8, 0x38#8, 0x39#8] = 0x340BC6D9#32

/-- 40_crc R85 and the first laws of R86: CRC_RESULT leaves the running state, and init; hash; result is crc32. -/
def Obligations.CrcResultReadsWithoutWriting : Prop :=
  decodeAt .internal 0x00000032#32 [] = .ok .crcResult
  ∧ (∀ s : State, ∃ t, runInstrs [.crcResult, .crcResult] s = .next t ∧ exec .crcResult s = .next t)
  ∧ (∀ (s : State) (d : List Byte), ∃ t u, runInstrs [.crcResult, .crcHash d] s = .next t ∧ exec (.crcHash d) s = .next u
      ∧ t.crc = u.crc)
  ∧ (∀ s : State, exec .crcResult s = .next { s with env := { s.env with opResult := .code (s.crc ^^^ 0xFFFFFFFF#32) } })
  ∧ (∀ (s : State) (a : List Byte), ∃ t, runInstrs [.crcInit, .crcHash a, .crcResult] s = .next t
      ∧ t.env.opResult = .code (crc32 a))
  ∧ (∀ s : State, ∃ t, runInstrs [.crcInit, .crcResult] s = .next t ∧ t.env.opResult = .code 0#32)
  ∧ ∀ s : State, s.crc = 0x340BC6D9#32 → ∃ t, exec .crcResult s = .next t ∧ t.env.opResult = .code 0xCBF43926#32

/-- The code tells apart any two byte lists that differ in exactly one byte (a consequence of 40_crc R82). -/
def Obligations.CrcDetectsOneChangedByte : Prop :=
  ∀ (before after : List Byte) (x y : Byte), x ≠ y → crc32 (before ++ x :: after) ≠ crc32 (before ++ y :: after)

/-! ### The Capture Ring -/

/-- 41_ring R88: RING_PUT, in slots and indices. -/
def Obligations.PutWritesSlotAndOverwritesOldest : Prop :=
  (∀ line ty part d, opcodeNumber (.ringPut line ty part d) = some 0x20)
  ∧ (∀ (line : Line) (ty : BitVec 8) (part : Bool) (d : List Byte) (s : State),
    s.params.ok → ringOk s.params s.ring → d.length ≤ s.params.payloadMax →
    ∃ t, exec (.ringPut line ty part d) s = .next t
      ∧ t = { s with ring := t.ring } ∧ t.ring.nslots = s.ring.nslots
      ∧ (getSlot t.ring s.ring.w).len.toNat = d.length ∧ (getSlot t.ring s.ring.w).line = line
      ∧ (getSlot t.ring s.ring.w).ty = ty ∧ (getSlot t.ring s.ring.w).part = part
      ∧ memRead (getSlot t.ring s.ring.w).data 0 d.length = d
      ∧ (∀ a, d.length ≤ a →
          readByte (getSlot t.ring s.ring.w).data a = readByte (getSlot s.ring s.ring.w).data a)
      ∧ (∀ i, i < s.ring.nslots → i ≠ s.ring.w → getSlot t.ring i = getSlot s.ring i)
      ∧ t.ring.w = (s.ring.w + 1) % s.ring.nslots
      ∧ ((s.ring.w + 1) % s.ring.nslots = s.ring.r →
          t.ring.r = (s.ring.r + 1) % s.ring.nslots ∧ t.ring.lostPending = true
          ∧ t.ring.drops.toNat = min (s.ring.drops.toNat + 1) (2 ^ 32 - 1))
      ∧ ((s.ring.w + 1) % s.ring.nslots ≠ s.ring.r →
          t.ring.r = s.ring.r ∧ t.ring.lostPending = s.ring.lostPending ∧ t.ring.drops = s.ring.drops))
  ∧ ∀ (line : Line) (ty : BitVec 8) (part : Bool) (d : List Byte) (s : State), s.params.payloadMax < d.length →
      exec (.ringPut line ty part d) s = .fault .badInternalOp

/-- The ring is a bounded queue of captures (41_ring R91, R92, R98): a put appends, dropping the oldest one exactly
when CAPACITY are unread. -/
def Obligations.PutAppendsToQueue : Prop :=
  ∀ (c : Capture) (s : State), s.params.ok → ringOk s.params s.ring → c.fits s.params = true →
    ∃ t, exec (putOf c) s = .next t
      ∧ unread t.ring = queueAfterPut s.ring c
      ∧ (unread s.ring).length ≤ capacity s.ring

/-- 41_ring R89, R92 and R96: a take from a ring that is not empty hands over the oldest unread capture, clears that
slot's length and leaves its tag and every other slot; from an empty ring it answers Empty and changes nothing. -/
def Obligations.TakeRemovesOldest : Prop :=
  opcodeNumber .ringTake = some 0x21
  ∧ (∀ (c : Capture) (cs : List Capture) (s : State), ringOk s.params s.ring → unread s.ring = c :: cs →
    ∃ t, exec .ringTake s = .next t ∧ t.env.opResult = .taken (some c) ∧ unread t.ring = cs
      ∧ c.bytes.length = c.len.toNat
      ∧ getSlot t.ring s.ring.r = { getSlot s.ring s.ring.r with len := 0#16 }
      ∧ (∀ i, i < s.ring.nslots → i ≠ s.ring.r → getSlot t.ring i = getSlot s.ring i)
      ∧ t.ring.r = (s.ring.r + 1) % s.ring.nslots ∧ t.ring.w = s.ring.w
      ∧ t.ring.lostPending = s.ring.lostPending ∧ t.ring.drops = s.ring.drops
      ∧ t = { s with ring := t.ring, env := { s.env with opResult := .taken (some c) } })
  ∧ (∀ s : State, s.ring.w = s.ring.r →
      exec .ringTake s = .next { s with env := { s.env with opResult := .taken none } })
  ∧ ∀ s : State, ringOk s.params s.ring → (unread s.ring = [] ↔ s.ring.w = s.ring.r)

/-- 41_ring R94: captures put into an empty ring, at most CAPACITY of them, come back in order with unmodified
content, then Empty. -/
def Obligations.RingIsFifoWithoutOverflow : Prop :=
  ∀ (cs : List Capture) (s : State), s.params.ok → ringOk s.params s.ring → s.ring.w = s.ring.r →
    (∀ c ∈ cs, c.fits s.params = true) →
    cs.length ≤ capacity s.ring →
    ∃ t, runInstrs (cs.map putOf) s = .next t
      ∧ takeResults (cs.length + 1) t = cs.map (fun c => .taken (some c)) ++ [.taken none]
      ∧ t.ring.drops = s.ring.drops ∧ t.ring.lostPending = s.ring.lostPending

/-- 41_ring R95: of more than CAPACITY captures put into an empty ring, exactly the oldest are dropped and counted,
and the newest CAPACITY come back in order, then Empty. -/
def Obligations.OverflowDropsExactlyTheOldest : Prop :=
  ∀ (cs : List Capture) (s : State), s.params.ok → ringOk s.params s.ring → s.ring.w = s.ring.r →
    (∀ c ∈ cs, c.fits s.params = true) →
    capacity s.ring < cs.length →
    ∃ t, runInstrs (cs.map putOf) s = .next t
      ∧ takeResults (capacity s.ring + 1) t
          = (cs.drop (cs.length - capacity s.ring)).map (fun c => .taken (some c)) ++ [.taken none]
      ∧ t.ring.drops.toNat = min (s.ring.drops.toNat + (cs.length - capacity s.ring)) (2 ^ 32 - 1)
      ∧ t.ring.lostPending = true

/-- Slot data bytes at or beyond a slot's length are never observed (10_state R22, D12): two states that differ only
in them step alike and go on differing only in them. The power-on value the model gives such bytes (entry 6) can
therefore not be told. -/
def Obligations.UnreadSlotBytesAreInvisible : Prop :=
  ∀ s s' : State, Inv s → Inv s' → sameButUnreadBytes s s' →
    (∀ t, step s = .next t → ∃ t', step s' = .next t' ∧ sameButUnreadBytes t t')
    ∧ ∀ f, step s = .fault f → step s' = .fault f

/-! ### The Capture Producer -/

/-- 42_producer R100: CAP_BYTE appends one byte, or discards it when the buffer is full. -/
def Obligations.CapByteAppendsOrDiscards : Prop :=
  (∀ b, opcodeNumber (.capByte b) = some 0x10) ∧ ignoresReservedBits 0x10
  ∧ (∀ (b : Byte) (s : State), s.params.ok → capOk s.params s.cap → s.cap.len.toNat < s.params.payloadMax →
    ∃ t, exec (.capByte b) s = .next t
      ∧ t.cap.len.toNat = s.cap.len.toNat + 1 ∧ readByte t.cap.bytes s.cap.len.toNat = b
      ∧ (∀ a, a ≠ s.cap.len.toNat → readByte t.cap.bytes a = readByte s.cap.bytes a)
      ∧ t = { s with cap := t.cap })
  ∧ ∀ (b : Byte) (s : State), s.params.payloadMax ≤ s.cap.len.toNat → exec (.capByte b) s = .next s

/-- 42_producer R101, R102, R106 and 20_memory R57 (d): EV_RX_COMPLETE enqueues the accumulated bytes, complete, under
the active line, clears the buffer and sets the wake latch, so that a capture is then pending. -/
def Obligations.RxCompleteEnqueuesAndWakes : Prop :=
  (∀ ty, opcodeNumber (.evRxComplete ty) = some 0x11) ∧ ignoresReservedBits 0x11
  ∧ ∀ (ty : BitVec 8) (s : State), ringOk s.params s.ring → capOk s.params s.cap →
    ∃ t, exec (.evRxComplete ty) s = .next t
      ∧ (∃ u, exec (.ringPut s.telem.active ty false (memRead s.cap.bytes 0 s.cap.len.toNat)) s = .next u
          ∧ t.ring = u.ring)
      ∧ unread t.ring
          = queueAfterPut s.ring
              { line := s.telem.active, ty := ty, part := false, len := s.cap.len
                bytes := memRead s.cap.bytes 0 s.cap.len.toNat }
      ∧ t.ring.w ≠ t.ring.r
      ∧ (∀ i, i < s.ring.nslots → i ≠ s.ring.w → getSlot t.ring i = getSlot s.ring i)
      ∧ ((unread s.ring).length = capacity s.ring →
          t.ring.lostPending = true ∧ t.ring.drops.toNat = min (s.ring.drops.toNat + 1) (2 ^ 32 - 1))
      ∧ ((unread s.ring).length ≠ capacity s.ring →
          t.ring.lostPending = s.ring.lostPending ∧ t.ring.drops = s.ring.drops)
      ∧ t.cap.len = 0#16 ∧ (∀ a, readByte t.cap.bytes a = 0#8)
      ∧ t = { s with
              ring := t.ring, cap := t.cap, framer := { s.framer with wake := true }
              out := s.out ++ [.captureStop, .captureRearm] }

/-- 42_producer R101, R103: EV_RX_ERROR enqueues the truncated capture with its partial flag and leaves the wake
latch. -/
def Obligations.RxErrorEnqueuesPartial : Prop :=
  (∀ ty, opcodeNumber (.evRxError ty) = some 0x12) ∧ ignoresReservedBits 0x12
  ∧ ∀ (ty : BitVec 8) (s : State), ringOk s.params s.ring → capOk s.params s.cap →
    ∃ t, exec (.evRxError ty) s = .next t
      ∧ (∃ u, exec (.ringPut s.telem.active ty true (memRead s.cap.bytes 0 s.cap.len.toNat)) s = .next u
          ∧ t.ring = u.ring)
      ∧ unread t.ring
          = queueAfterPut s.ring
              { line := s.telem.active, ty := ty, part := true, len := s.cap.len
                bytes := memRead s.cap.bytes 0 s.cap.len.toNat }
      ∧ (∀ i, i < s.ring.nslots → i ≠ s.ring.w → getSlot t.ring i = getSlot s.ring i)
      ∧ ((unread s.ring).length = capacity s.ring →
          t.ring.lostPending = true ∧ t.ring.drops.toNat = min (s.ring.drops.toNat + 1) (2 ^ 32 - 1))
      ∧ ((unread s.ring).length ≠ capacity s.ring →
          t.ring.lostPending = s.ring.lostPending ∧ t.ring.drops = s.ring.drops)
      ∧ t.cap.len = 0#16 ∧ (∀ a, readByte t.cap.bytes a = 0#8)
      ∧ t = { s with ring := t.ring, cap := t.cap, out := s.out ++ [.captureStop, .captureRearm] }

/-! ### The framer -/

/-- 43_framer R120: STOPPED leaves for CYCLE_START when run = 1; with run = 0 the framer holds (a turn that changes
nothing, entry 8). -/
def Obligations.StoppedHoldsUntilRun : Prop :=
  decodePhase 0#4 = some .phaseStopped
  ∧ (∀ s : State, s.cfg.run = true →
    exec .phaseStopped s = .next { s with framer := { s.framer with phase := 1#4 } })
  ∧ ∀ s : State, s.cfg.run = false → exec .phaseStopped s = .next s

/-- 43_framer R121: CYCLE_START, with the header's sequence field byte by byte. -/
def Obligations.CycleStartNumbersTheCycle : Prop :=
  decodePhase 1#4 = some .phaseCycleStart
  ∧ (∀ s : State, s.pkt.wf = true → s.cfg.run = true →
    ∃ t, exec .phaseCycleStart s = .next t
      ∧ t.framer.seq.toNat = (s.framer.seq.toNat + 1) % 2 ^ 32
      ∧ memRead t.pkt 0 4 = le32 t.framer.seq
      ∧ (∀ a, 4 ≤ a → readByte t.pkt a = readByte s.pkt a)
      ∧ t = { s with
              pkt := t.pkt
              framer :=
                { s.framer with
                  seq := t.framer.seq, pending0 := decide (s.ring.w ≠ s.ring.r), aborted := false, wake := false
                  phase := if s.framer.cyc = 0 then 2#4 else 3#4 } })
  ∧ ∀ s : State, s.cfg.run = false →
      exec .phaseCycleStart s = .next { s with framer := { s.framer with phase := 0#4 } }

/-- 43_framer R122: TELEM's registers and error flags, channel by channel, and the line-detection heuristic on the
values after the reads. -/
def Obligations.TelemRefreshesAndDetectsLine : Prop :=
  decodePhase 2#4 = some .phaseTelem
  ∧ ∀ (s : State) (v : PerChannel (Option Half)),
    measAnswer s 0 = .answer v.ccLineA → measAnswer s 1 = .answer v.ccLineB →
    measAnswer s 2 = .answer v.controlCurrent → measAnswer s 3 = .answer v.busVoltage →
    measAnswer s 4 = .answer v.busCurrent →
    ∃ t, exec .phaseTelem s = .next t
      ∧ t.telem.tel.ccLineA = v.ccLineA.getD s.telem.tel.ccLineA
      ∧ t.telem.tel.ccLineB = v.ccLineB.getD s.telem.tel.ccLineB
      ∧ t.telem.tel.controlCurrent = v.controlCurrent.getD s.telem.tel.controlCurrent
      ∧ t.telem.tel.busVoltage = v.busVoltage.getD s.telem.tel.busVoltage
      ∧ t.telem.tel.busCurrent = v.busCurrent.getD s.telem.tel.busCurrent
      ∧ t.telem.measErr.getLsbD 0 = v.ccLineA.isNone ∧ t.telem.measErr.getLsbD 1 = v.ccLineB.isNone
      ∧ t.telem.measErr.getLsbD 2 = v.controlCurrent.isNone ∧ t.telem.measErr.getLsbD 3 = v.busVoltage.isNone
      ∧ t.telem.measErr.getLsbD 4 = v.busCurrent.isNone
      ∧ ((s.params.winLo : Int) < t.telem.tel.ccLineA.toInt ∧ t.telem.tel.ccLineA.toInt < (s.params.winHi : Int) →
          t.telem.active = if s.cfg.lineSel = .a then .b else .a)
      ∧ (¬ ((s.params.winLo : Int) < t.telem.tel.ccLineA.toInt ∧ t.telem.tel.ccLineA.toInt < (s.params.winHi : Int)) →
          (s.params.winLo : Int) < t.telem.tel.ccLineB.toInt ∧ t.telem.tel.ccLineB.toInt < (s.params.winHi : Int) →
          t.telem.active = if s.cfg.lineSel = .b then .a else .b)
      ∧ (¬ ((s.params.winLo : Int) < t.telem.tel.ccLineA.toInt ∧ t.telem.tel.ccLineA.toInt < (s.params.winHi : Int)) →
          ¬ ((s.params.winLo : Int) < t.telem.tel.ccLineB.toInt ∧ t.telem.tel.ccLineB.toInt < (s.params.winHi : Int)) →
          t.telem.active = s.telem.active)
      ∧ t = { s with telem := t.telem, framer := { s.framer with phase := 3#4 }, env := t.env }
      ∧ t.env.turns = s.env.turns ∧ t.env.txIn = s.env.txIn ∧ t.env.opResult = s.env.opResult
      ∧ t.env.measIn = s.env.measIn.drop 5

/-- 43_framer R123: a take cycle that finds a capture (the take, and header and payload byte by byte with the
packet-type word of 30_encoding R72), a take cycle on an empty ring, and a cycle that does not take. -/
def Obligations.AssembleTakesAtMostOneCapture : Prop :=
  decodePhase 3#4 = some .phaseAssemble
  ∧ (∀ (s : State) (c : Capture) (cs : List Capture), ringOk s.params s.ring → s.pkt.wf = true →
    s.framer.cyc < s.params.takeCycles → unread s.ring = c :: cs →
    ∃ t, exec .phaseAssemble s = .next t
      ∧ (∃ u, exec .ringTake s = .next u ∧ t.ring = { u.ring with lostPending := false })
      ∧ unread t.ring = cs ∧ t.ring.lostPending = false ∧ t.ring.drops = s.ring.drops
      ∧ memRead t.pkt 4 10
          = le16 s.telem.tel.ccLineA ++ le16 s.telem.tel.ccLineB ++ le16 s.telem.tel.controlCurrent
            ++ le16 s.telem.tel.busVoltage ++ le16 s.telem.tel.busCurrent
      ∧ (readHalf t.pkt 14).getLsbD 0 = decide (c.line = .b)
      ∧ (readHalf t.pkt 14).getLsbD 1 = s.ring.lostPending
      ∧ (readHalf t.pkt 14).getLsbD 2 = c.part
      ∧ (readHalf t.pkt 14).extractLsb' 3 5 = s.params.protoVersion
      ∧ (readHalf t.pkt 14).extractLsb' 8 8 = c.ty
      ∧ readHalf t.pkt 16 = c.len
      ∧ memRead t.pkt 20 s.params.payloadMax = c.bytes ++ zeros (s.params.payloadMax - c.bytes.length)
      ∧ (∀ a, a < 4 ∨ a = 18 ∨ a = 19 ∨ 20 + s.params.payloadMax ≤ a → readByte t.pkt a = readByte s.pkt a)
      ∧ t = { s with ring := t.ring, pkt := t.pkt, framer := { s.framer with phase := 4#4 } })
  ∧ (∀ s : State, s.pkt.wf = true → s.framer.cyc < s.params.takeCycles → s.ring.w = s.ring.r →
    ∃ t, exec .phaseAssemble s = .next t
      ∧ t.ring = { s.ring with lostPending := false }
      ∧ memRead t.pkt 4 10
          = le16 s.telem.tel.ccLineA ++ le16 s.telem.tel.ccLineB ++ le16 s.telem.tel.controlCurrent
            ++ le16 s.telem.tel.busVoltage ++ le16 s.telem.tel.busCurrent
      ∧ (readHalf t.pkt 14).getLsbD 0 = decide (s.telem.active = .b)
      ∧ (readHalf t.pkt 14).getLsbD 1 = s.ring.lostPending
      ∧ (readHalf t.pkt 14).getLsbD 2 = false
      ∧ (readHalf t.pkt 14).extractLsb' 3 5 = s.params.protoVersion
      ∧ (readHalf t.pkt 14).extractLsb' 8 8 = 0#8
      ∧ (∀ a, a < 4 ∨ 16 ≤ a → readByte t.pkt a = readByte s.pkt a)
      ∧ t = { s with ring := t.ring, pkt := t.pkt, framer := { s.framer with phase := 4#4 } })
  ∧ ∀ s : State, s.params.takeCycles ≤ s.framer.cyc →
      exec .phaseAssemble s = .next { s with framer := { s.framer with phase := 4#4 } }

/-- 43_framer R124: SEAL writes the CRC-32 of the span as the trailer and nothing else of the packet. -/
def Obligations.SealWritesTrailer : Prop :=
  decodePhase 4#4 = some .phaseSeal
  ∧ ∀ s : State, s.pkt.wf = true →
    ∃ t, exec .phaseSeal s = .next t
      ∧ memRead t.pkt s.params.span 4 = le32 (crc32 (memRead s.pkt 0 s.params.span))
      ∧ (∀ a, a < s.params.span ∨ s.params.span + 4 ≤ a → readByte t.pkt a = readByte s.pkt a)
      ∧ pktSealed s.params t.pkt
      ∧ t.crc = crcFold 0xFFFFFFFF#32 (memRead s.pkt 0 s.params.span)
      ∧ t = { s with pkt := t.pkt, crc := t.crc, framer := { s.framer with phase := 5#4 } }

/-- 43_framer R125: TX_DECIDE, on the little-endian payload length field. -/
def Obligations.TxDecideSendsOrSuppresses : Prop :=
  decodePhase 5#4 = some .phaseTxDecide
  ∧ (∀ s : State, (readByte s.pkt 16).toNat + 256 * (readByte s.pkt 17).toNat ≠ 0 ∨ s.cfg.suppress = false →
    exec .phaseTxDecide s
      = .next { s with framer := { s.framer with txOff := 0, stall := 0#32, phase := 6#4 } })
  ∧ ∀ s : State, (readByte s.pkt 16).toNat + 256 * (readByte s.pkt 17).toNat = 0 → s.cfg.suppress = true →
      exec .phaseTxDecide s = .next { s with framer := { s.framer with phase := 8#4 } }

/-- 43_framer R126: TX_WRITE for every answer of the transport. -/
def Obligations.TxWriteAcceptsStallsOrAborts : Prop :=
  decodePhase 6#4 = some .phaseTxWrite
  ∧ (∀ s : State, 0 < txAnswer s → txAnswer s ≤ s.params.pktLen - s.framer.txOff →
    ∃ t, exec .phaseTxWrite s = .next t
      ∧ t = { s with
              out := s.out ++ [.txBytes (memRead s.pkt s.framer.txOff (txAnswer s))]
              framer :=
                { s.framer with
                  txOff := s.framer.txOff + txAnswer s
                  phase := if s.framer.txOff + txAnswer s = s.params.pktLen then 8#4 else 6#4 }
              env := t.env }
      ∧ t.env.turns = s.env.turns ∧ t.env.txIn = s.env.txIn.tail ∧ t.env.measIn = s.env.measIn)
  ∧ (∀ s : State, txAnswer s = 0 →
      ∃ t, exec .phaseTxWrite s = .next t
        ∧ t.framer.stall.toNat = min (s.framer.stall.toNat + 1) (2 ^ 32 - 1)
        ∧ t.env.turns = s.env.turns ∧ t.env.txIn = s.env.txIn.tail ∧ t.env.measIn = s.env.measIn
        ∧ (s.params.stallMax < t.framer.stall.toNat ∧ s.cfg.autostop = true →
            t = { s with
                  cfg := { s.cfg with run := false }
                  framer :=
                    { s.framer with stall := t.framer.stall, aborted := true, autostopped := true, phase := 8#4 }
                  env := t.env })
        ∧ (¬ (s.params.stallMax < t.framer.stall.toNat ∧ s.cfg.autostop = true) →
            t = { s with framer := { s.framer with stall := t.framer.stall, phase := 7#4 }, env := t.env }))
  ∧ ∀ s : State, s.params.pktLen - s.framer.txOff < txAnswer s → exec .phaseTxWrite s = .fault .transportOverrun

/-- The model's choice for its own free value (entry 3): where no answer is listed, the transport's answer is within
what was offered, so that only a listed answer can be out of contract. -/
def Obligations.FreeTransportAnswerIsInRange : Prop :=
  ∀ s : State, s.env.txIn = [] → txAnswer s ≤ s.params.pktLen - s.framer.txOff

/-- 43_framer R127: CLEAR, with the payload and its length field byte by byte. -/
def Obligations.ClearEmptiesPayload : Prop :=
  decodePhase 8#4 = some .phaseClear
  ∧ ∀ s : State, s.pkt.wf = true →
    ∃ t, exec .phaseClear s = .next t
      ∧ (∀ a, 20 ≤ a → a < 20 + s.params.payloadMax → readByte t.pkt a = 0#8)
      ∧ readByte t.pkt 16 = 0#8 ∧ readByte t.pkt 17 = 0#8
      ∧ (∀ a, a < 16 ∨ a = 18 ∨ a = 19 ∨ 20 + s.params.payloadMax ≤ a → readByte t.pkt a = readByte s.pkt a)
      ∧ t = { s with
              pkt := t.pkt
              framer :=
                { s.framer with
                  cyc := (s.framer.cyc + 1) % s.params.k
                  phase := if s.framer.aborted then 0#4 else if s.framer.pending0 then 1#4 else 9#4 } }

/-- 43_framer R128, R129: the two sleeps end at any step and clear the wake latch, as the whole next state. -/
def Obligations.SleepsEndAndClearWake : Prop :=
  decodePhase 7#4 = some .phaseTxSleep ∧ decodePhase 9#4 = some .phaseIdleSleep
  ∧ (∀ s : State, exec .phaseTxSleep s = .next { s with framer := { s.framer with wake := false, phase := 6#4 } })
  ∧ ∀ s : State, exec .phaseIdleSleep s = .next { s with framer := { s.framer with wake := false, phase := 1#4 } }

/-- 43_framer R132: with auto-stop on and every answer 0, STALL_MAX + 1 writes and STALL_MAX sleeps, then CLEAR, lead
to STOPPED with run = 0 and autostopped = 1, and nothing more of the packet is sent. -/
def Obligations.BackpressureAutoStops : Prop :=
  ∀ (s : State) (ts : List Turn) (xs : List Nat),
    s.params.ok → s.framer.phase = 6#4 → s.framer.stall = 0#32 → s.cfg.autostop = true →
    s.env.turns = List.replicate (2 * s.params.stallMax + 2) (.agent .framer) ++ ts →
    s.env.txIn = List.replicate (s.params.stallMax + 1) 0 ++ xs →
    (∀ n, n ≤ s.params.stallMax →
      ∃ u, runSteps (2 * n) s = .next u ∧ u.framer.phase = 6#4 ∧ u.cfg.run = s.cfg.run
        ∧ u.framer.stall.toNat = n)
    ∧ ∃ t, runSteps (2 * s.params.stallMax + 2) s = .next t
        ∧ t.framer.phase = 0#4 ∧ t.cfg.run = false ∧ t.framer.autostopped = true ∧ t.framer.aborted = true
        ∧ t.framer.stall.toNat = s.params.stallMax + 1 ∧ t.framer.txOff = s.framer.txOff ∧ t.out = s.out
        ∧ t.env.turns = ts ∧ t.env.txIn = xs

/-- 43_framer R132, second half, and 70_reset_and_hazards R212: with auto-stop off no number of zero answers leads out
of TX_WRITE and TX_SLEEP, whatever the start flag. -/
def Obligations.StallIsUnboundedWithoutAutoStop : Prop :=
  ∀ (n : Nat) (s : State) (ts : List Turn) (xs : List Nat),
    s.framer.phase = 6#4 → s.cfg.autostop = false →
    s.env.turns = List.replicate (2 * n) (.agent .framer) ++ ts → s.env.txIn = List.replicate n 0 ++ xs →
    ∃ t, runSteps (2 * n) s = .next t
      ∧ t.framer.phase = 6#4 ∧ t.framer.stall.toNat = min (s.framer.stall.toNat + n) (2 ^ 32 - 1)
      ∧ t.framer.txOff = s.framer.txOff ∧ t.framer.autostopped = s.framer.autostopped ∧ t.cfg = s.cfg
      ∧ t.pkt = s.pkt ∧ t.ring = s.ring ∧ t.out = s.out

/-- 43_framer R126 over a whole packet: however the transport cuts it up, and whatever stalls come between (within the
threshold, or with auto-stop off), the host receives exactly the bytes of the packet, once and in order. -/
def Obligations.ChunkedWritesDeliverThePacketWhole : Prop :=
  ∀ (s : State) (ks : List Nat) (ts : List Turn) (xs : List Nat),
    s.framer.phase = 6#4 → s.framer.txOff = 0 → s.framer.stall = 0#32 →
    ks.sum = s.params.pktLen → ks.dropLast.sum < s.params.pktLen →
    (ks.count 0 ≤ s.params.stallMax ∨ s.cfg.autostop = false) →
    s.env.turns = List.replicate (ks.length + ks.count 0) (.agent .framer) ++ ts → s.env.txIn = ks ++ xs →
    ∃ t, runSteps (ks.length + ks.count 0) s = .next t
      ∧ t.framer.phase = 8#4 ∧ t.framer.txOff = s.params.pktLen
      ∧ deliveredBytes t.out = deliveredBytes s.out ++ memRead s.pkt 0 s.params.pktLen
      ∧ t.framer.stall.toNat = min (ks.count 0) (2 ^ 32 - 1)
      ∧ t.pkt = s.pkt ∧ t.ring = s.ring ∧ t.cfg = s.cfg ∧ t.framer.aborted = s.framer.aborted
      ∧ t.env.turns = ts ∧ t.env.txIn = xs

/-- 40_crc R86, 20_memory R48, R49, R50: what the transport receives is a slice, at the transmit offset, of the packet
buffer, whose trailer is the CRC-32 of the rest, whose reserved field is 0 and whose payload is zero beyond its length
field; the step leaves the buffer, so every chunk of a packet is a slice of the same bytes. -/
def Obligations.TransmittedBytesAreOfASealedPacket : Prop :=
  ∀ (s t : State) (bs : List Byte), Inv s → step s = .next t → t.out = s.out ++ [.txBytes bs] →
    bs = ((memRead s.pkt 0 s.params.pktLen).drop s.framer.txOff).take bs.length
    ∧ t.framer.txOff = s.framer.txOff + bs.length ∧ t.framer.txOff ≤ s.params.pktLen ∧ 0 < bs.length ∧ t.pkt = s.pkt
    ∧ memRead s.pkt s.params.span 4 = le32 (crc32 (memRead s.pkt 0 s.params.span))
    ∧ memRead s.pkt 18 2 = [0#8, 0#8]
    ∧ ∀ a, 20 + (readByte s.pkt 16).toNat + 256 * (readByte s.pkt 17).toNat ≤ a → a < s.params.span →
        readByte s.pkt a = 0#8

/-- 43_framer R135 for one cycle: from CYCLE_START with a capture pending on a take cycle, and a transport that takes
the packet whole, the framer's next steps send one packet with the next sequence number, the oldest capture's bytes,
length and tag, the telemetry of the cycle, and the CRC of all that. -/
def Obligations.CycleSendsTheOldestCapture : Prop :=
  ∀ (s : State) (c : Capture) (cs : List Capture) (ts : List Turn) (xs : List Nat),
    Inv s → s.framer.phase = 1#4 → s.cfg.run = true → s.framer.cyc < s.params.takeCycles →
    unread s.ring = c :: cs → (c.len ≠ 0#16 ∨ s.cfg.suppress = false) →
    (s.framer.cyc = 0 → ∀ i, i < 5 → ∃ v, measAnswer s i = .answer v) →
    s.env.turns = List.replicate (if s.framer.cyc = 0 then 6 else 5) (.agent .framer) ++ ts →
    s.env.txIn = s.params.pktLen :: xs →
    ∃ t p, runSteps (if s.framer.cyc = 0 then 6 else 5) s = .next t
      ∧ t.out = s.out ++ [.txBytes p] ∧ p.length = s.params.pktLen
      ∧ p.take 4 = le32 (s.framer.seq + 1#32)
      ∧ (p.drop 4).take 10
          = le16 t.telem.tel.ccLineA ++ le16 t.telem.tel.ccLineB ++ le16 t.telem.tel.controlCurrent
            ++ le16 t.telem.tel.busVoltage ++ le16 t.telem.tel.busCurrent
      ∧ (p.drop 14).take 2 = le16 (typeword s.params.protoVersion c.line s.ring.lostPending c.part c.ty)
      ∧ (p.drop 16).take 2 = le16 c.len
      ∧ (p.drop 18).take 2 = [0#8, 0#8]
      ∧ (p.drop 20).take s.params.payloadMax = c.bytes ++ zeros (s.params.payloadMax - c.bytes.length)
      ∧ p.drop s.params.span = le32 (crc32 (p.take s.params.span))
      ∧ unread t.ring = cs ∧ t.framer.seq = s.framer.seq + 1#32 ∧ t.framer.phase = 8#4
      ∧ t.env.turns = ts ∧ t.env.txIn = xs
end

