-- ==== Sys2Proof/Laws/Memory.lean ====
section
/-! SUPPORT. What reading and writing a byte space do: each law says it once, so that later proofs cite it instead
of unfolding the operation. -/

namespace Sys2Proof.Machine

/-- An offset below the first listed one reads as 0. -/
theorem readByte_eq_zero_of_lt {lo : Nat} {m : Memory} (h : Memory.wfFrom lo m = true) {i : Nat} (hi : i < lo) :
    readByte m i = 0#8 := by
  induction m generalizing lo with
  | nil => rfl
  | cons c rest ih =>
    obtain ⟨a, b⟩ := c
    simp only [Memory.wfFrom, Bool.and_eq_true, decide_eq_true_eq] at h
    have hai : a ≠ i := by omega
    simp only [readByte, hai, if_false]
    exact ih h.2 (by omega)

/-- A canonical space is canonical from any lower offset. -/
theorem wfFrom_mono {lo lo' : Nat} {m : Memory} (h : Memory.wfFrom lo m = true) (hl : lo' ≤ lo) :
    Memory.wfFrom lo' m = true := by
  cases m with
  | nil => rfl
  | cons c rest =>
    obtain ⟨a, b⟩ := c
    simp only [Memory.wfFrom, Bool.and_eq_true, decide_eq_true_eq] at h ⊢
    exact ⟨⟨by omega, h.1.2⟩, h.2⟩

/-- Read after write, at the written offset and at every other. -/
theorem readByte_writeByte_from {lo : Nat} {m : Memory} (h : Memory.wfFrom lo m = true) (i : Nat) (v : Byte) (j : Nat) :
    readByte (writeByte m i v) j = if j = i then v else readByte m j := by
  induction m generalizing lo with
  | nil =>
    by_cases hv : v = 0#8 <;> by_cases hj : j = i <;> simp [writeByte, readByte, hv, hj, eq_comm]
    exact fun hij => absurd hij.symm hj
  | cons c rest ih =>
    obtain ⟨a, b⟩ := c
    simp only [Memory.wfFrom, Bool.and_eq_true, decide_eq_true_eq] at h
    by_cases hia : i < a
    · have hz : readByte rest i = 0#8 := readByte_eq_zero_of_lt h.2 (by omega)
      have hai : a ≠ i := by omega
      by_cases hv : v = 0#8 <;> by_cases hj : j = i
      · subst hj; simp [writeByte, readByte, hia, hv, hai, hz]
      · simp [writeByte, hia, hv, hj]
      · subst hj; simp [writeByte, readByte, hia, hv]
      · have hij : i ≠ j := fun e => hj e.symm
        simp [writeByte, readByte, hia, hv, hj, hij]
    · by_cases hea : i = a
      · subst hea
        have hz : readByte rest i = 0#8 := readByte_eq_zero_of_lt h.2 (by omega)
        by_cases hv : v = 0#8 <;> by_cases hj : j = i
        · subst hj; simp [writeByte, hv, hz]
        · have hij : i ≠ j := fun e => hj e.symm
          simp [writeByte, readByte, hv, hj, hij]
        · subst hj; simp [writeByte, readByte, hv]
        · have hij : i ≠ j := fun e => hj e.symm
          simp [writeByte, readByte, hv, hj, hij]
      · have hae : a ≠ i := fun e => hea e.symm
        simp only [writeByte, hia, hea, if_false, readByte, ih h.2]
        by_cases haj : a = j
        · subst haj; simp [hae]
        · simp [haj]

/-- Writing keeps the canonical form. -/
theorem wfFrom_writeByte {lo : Nat} {m : Memory} (h : Memory.wfFrom lo m = true) {i : Nat} (hi : lo ≤ i) (v : Byte) :
    Memory.wfFrom lo (writeByte m i v) = true := by
  induction m generalizing lo with
  | nil => by_cases hv : v = 0#8 <;> simp [writeByte, hv, Memory.wfFrom, hi]
  | cons c rest ih =>
    obtain ⟨a, b⟩ := c
    have h' := h
    simp only [Memory.wfFrom, Bool.and_eq_true, decide_eq_true_eq] at h
    by_cases hia : i < a
    · by_cases hv : v = 0#8
      · simpa [writeByte, hia, hv] using h'
      · simp [writeByte, hia, hv, Memory.wfFrom, hi, h.2, Nat.succ_le_of_lt hia]
        simpa using h.1.2
    · by_cases hea : i = a
      · subst hea
        by_cases hv : v = 0#8
        · simp [writeByte, hv]; exact wfFrom_mono h.2 (by omega)
        · simp [writeByte, hv, Memory.wfFrom, hi, h.2]
      · simp only [writeByte, hia, hea, if_false, Memory.wfFrom, Bool.and_eq_true, decide_eq_true_eq]
        exact ⟨h.1, ih h.2 (by omega)⟩

/-- Read after write of one byte. -/
theorem readByte_writeByte {m : Memory} (h : m.wf = true) (i : Nat) (v : Byte) (j : Nat) :
    readByte (writeByte m i v) j = if j = i then v else readByte m j := readByte_writeByte_from h i v j

/-- Writing one byte keeps the canonical form. -/
theorem wf_writeByte {m : Memory} (h : m.wf = true) (i : Nat) (v : Byte) : (writeByte m i v).wf = true :=
  wfFrom_writeByte h (Nat.zero_le i) v

/-- Writing one byte inside a space of n bytes lists nothing outside it. -/
theorem within_writeByte {n : Nat} {m : Memory} (h : m.within n = true) {i : Nat} (hi : i < n) (v : Byte) :
    (writeByte m i v).within n = true := by
  induction m with
  | nil => by_cases hv : v = 0#8 <;> simp [writeByte, hv, Memory.within, hi]
  | cons c rest ih =>
    obtain ⟨a, b⟩ := c
    simp only [Memory.within, List.all_cons, Bool.and_eq_true, decide_eq_true_eq] at h ih
    by_cases hia : i < a
    · by_cases hv : v = 0#8 <;> simp [writeByte, hia, hv, Memory.within, h.1, hi] <;> simpa using h.2
    · by_cases hea : i = a
      · subst hea
        by_cases hv : v = 0#8 <;> simp [writeByte, hv, Memory.within, hi] <;> simpa using h.2
      · simp only [writeByte, hia, hea, if_false, Memory.within, List.all_cons, Bool.and_eq_true, decide_eq_true_eq]
        exact ⟨h.1, ih h.2⟩

/-- Writing a list of bytes keeps the canonical form. -/
theorem wf_memWrite {m : Memory} (h : m.wf = true) (addr : Nat) (bs : List Byte) : (memWrite m addr bs).wf = true := by
  induction bs generalizing m addr with
  | nil => exact h
  | cons b bs ih => exact ih (wf_writeByte h addr b) (addr + 1)

/-- Writing a list of bytes inside a space lists nothing outside it. -/
theorem within_memWrite {n : Nat} {m : Memory} (h : m.within n = true) {addr : Nat} {bs : List Byte}
    (hb : addr + bs.length ≤ n) : (memWrite m addr bs).within n = true := by
  induction bs generalizing m addr with
  | nil => exact h
  | cons b bs ih =>
    simp only [List.length_cons] at hb
    exact ih (within_writeByte h (by omega) b) (by omega)

/-- Read after a write of a list: the written bytes inside its range, the old ones everywhere else. -/
theorem readByte_memWrite {m : Memory} (h : m.wf = true) (addr : Nat) (bs : List Byte) (j : Nat) :
    readByte (memWrite m addr bs) j
      = if addr ≤ j ∧ j < addr + bs.length then bs.getD (j - addr) 0#8 else readByte m j := by
  induction bs generalizing m addr with
  | nil =>
    have : ¬ (addr ≤ j ∧ j < addr + ([] : List Byte).length) := by simp
    simp only [this, if_false, memWrite]
  | cons b bs ih =>
    rw [memWrite, ih (wf_writeByte h addr b), readByte_writeByte h]
    simp only [List.length_cons]
    by_cases h1 : addr + 1 ≤ j ∧ j < addr + 1 + bs.length
    · have h2 : addr ≤ j ∧ j < addr + (bs.length + 1) := by omega
      obtain ⟨k, hk⟩ : ∃ k, j - addr = k + 1 := ⟨j - addr - 1, by omega⟩
      have hk' : j - (addr + 1) = k := by omega
      simp only [h1, h2, hk, hk', and_self, if_true, List.getD_cons_succ]
    · by_cases he : j = addr
      · subst he
        have h2 : j ≤ j ∧ j < j + (bs.length + 1) := by omega
        simp only [h1, h2, and_self, if_true, if_false, Nat.sub_self, List.getD_cons_zero]
      · have h2 : ¬ (addr ≤ j ∧ j < addr + (bs.length + 1)) := by omega
        simp only [h1, h2, he, if_false]

@[simp] theorem memRead_length (m : Memory) (addr n : Nat) : (memRead m addr n).length = n := by
  induction n generalizing addr with
  | zero => rfl
  | succ n ih => simp [memRead, ih]

/-- The j-th byte of a read. -/
theorem memRead_getD (m : Memory) (addr n j : Nat) (hj : j < n) :
    (memRead m addr n).getD j 0#8 = readByte m (addr + j) := by
  induction n generalizing addr j with
  | zero => omega
  | succ n ih =>
    cases j with
    | zero => simp [memRead]
    | succ j =>
      have hs : addr + 1 + j = addr + (j + 1) := by omega
      rw [memRead, List.getD_cons_succ, ih (addr + 1) j (by omega), hs]

/-- Two spaces that read the same over a range give the same list. -/
theorem memRead_congr {m m' : Memory} {addr n : Nat} (h : ∀ j, j < n → readByte m (addr + j) = readByte m' (addr + j)) :
    memRead m addr n = memRead m' addr n := by
  induction n generalizing addr with
  | zero => rfl
  | succ n ih =>
    rw [memRead, memRead, ih]
    · have h0 := h 0 (by omega)
      simp only [Nat.add_zero] at h0
      rw [h0]
    · intro j hj
      have h1 := h (j + 1) (by omega)
      rwa [show addr + (j + 1) = addr + 1 + j by omega] at h1

/-- What was written is what is read back. -/
theorem memRead_memWrite {m : Memory} (h : m.wf = true) (addr : Nat) (bs : List Byte) :
    memRead (memWrite m addr bs) addr bs.length = bs := by
  apply List.ext_getElem (by simp)
  intro j h1 h2
  have hj : j < bs.length := h2
  have hg := memRead_getD (memWrite m addr bs) addr bs.length j hj
  rw [readByte_memWrite h] at hg
  simp only [Nat.le_add_right, Nat.add_lt_add_left hj addr, and_self, if_true, Nat.add_sub_cancel_left] at hg
  simpa [List.getD_eq_getElem?_getD, List.getElem?_eq_getElem h1, List.getElem?_eq_getElem h2] using hg

/-- A write outside a range leaves what the range reads. -/
theorem memRead_memWrite_disjoint {m : Memory} (h : m.wf = true) (addr : Nat) (bs : List Byte) (addr' n : Nat)
    (hd : addr' + n ≤ addr ∨ addr + bs.length ≤ addr') : memRead (memWrite m addr bs) addr' n = memRead m addr' n := by
  apply memRead_congr
  intro j hj
  rw [readByte_memWrite h, if_neg (by omega)]

@[simp] theorem zeros_length (n : Nat) : (zeros n).length = n := by simp [zeros]

/-- Filtering keeps an ascending list without zeros ascending and without zeros. -/
theorem wfFrom_filter {lo : Nat} {m : Memory} (h : Memory.wfFrom lo m = true) (p : Host.Cell → Bool) :
    Memory.wfFrom lo (m.filter p) = true := by
  induction m generalizing lo with
  | nil => rfl
  | cons c rest ih =>
    obtain ⟨a, b⟩ := c
    simp only [Memory.wfFrom, Bool.and_eq_true, decide_eq_true_eq] at h
    by_cases hp : p (a, b) = true
    · simp only [List.filter_cons, hp, if_true, Memory.wfFrom, Bool.and_eq_true, decide_eq_true_eq]
      exact ⟨h.1, ih h.2⟩
    · simp only [List.filter_cons, hp]
      exact wfFrom_mono (ih h.2) (by omega)

/-- Zeroing a range keeps the canonical form. -/
theorem wf_memZero {m : Memory} (h : m.wf = true) (addr n : Nat) : (memZero m addr n).wf = true := wfFrom_filter h _

/-- Zeroing lists nothing new. -/
theorem within_memZero {k : Nat} {m : Memory} (h : m.within k = true) (addr n : Nat) :
    (memZero m addr n).within k = true := by
  simp only [Memory.within, memZero, List.all_eq_true, List.mem_filter] at h ⊢
  exact fun c hc => h c hc.1

/-- Read after zeroing a range: 0 inside it, the old byte everywhere else. -/
theorem readByte_memZero (m : Memory) (addr n j : Nat) :
    readByte (memZero m addr n) j = if addr ≤ j ∧ j < addr + n then 0#8 else readByte m j := by
  induction m with
  | nil => simp [memZero, readByte]
  | cons c rest ih =>
    obtain ⟨a, b⟩ := c
    have hcons : memZero ((a, b) :: rest) addr n
        = if a < addr ∨ addr + n ≤ a then (a, b) :: memZero rest addr n else memZero rest addr n := by
      by_cases hp : a < addr ∨ addr + n ≤ a <;> simp [memZero, hp]
    rw [hcons]
    by_cases hp : a < addr ∨ addr + n ≤ a
    · rw [if_pos hp]
      by_cases haj : a = j
      · subst haj
        have hn : ¬ (addr ≤ a ∧ a < addr + n) := by omega
        simp [readByte, hn]
      · simp only [readByte, haj, if_false, ih]
    · rw [if_neg hp, ih]
      by_cases haj : a = j
      · subst haj
        have hy : addr ≤ a ∧ a < addr + n := by omega
        simp [hy]
      · simp only [readByte, haj, if_false]

/-- A padded write keeps the canonical form. -/
theorem wf_memWritePadded {m : Memory} (h : m.wf = true) (addr n : Nat) (bs : List Byte) :
    (memWritePadded m addr n bs).wf = true := wf_memWrite (wf_memZero h addr n) addr _

/-- A padded write inside a space lists nothing outside it. -/
theorem within_memWritePadded {k : Nat} {m : Memory} (h : m.within k = true) {addr n : Nat} (hk : addr + n ≤ k)
    {bs : List Byte} (hb : bs.length ≤ n) : (memWritePadded m addr n bs).within k = true :=
  within_memWrite (within_memZero h addr n) (by omega)

/-- Read after a padded write of a list that fits: its bytes, then zeros, and the old bytes outside the range. -/
theorem readByte_memWritePadded {m : Memory} (h : m.wf = true) (addr n : Nat) {bs : List Byte} (hb : bs.length ≤ n)
    (j : Nat) : readByte (memWritePadded m addr n bs) j
      = if addr ≤ j ∧ j < addr + n then bs.getD (j - addr) 0#8 else readByte m j := by
  rw [memWritePadded, readByte_memWrite (wf_memZero h addr n), readByte_memZero]
  by_cases h1 : addr ≤ j ∧ j < addr + bs.length
  · have h2 : addr ≤ j ∧ j < addr + n := by omega
    simp only [h1, h2, and_self, if_true]
  · by_cases h2 : addr ≤ j ∧ j < addr + n
    · have h3 : bs.length ≤ j - addr := by omega
      rw [if_neg h1, if_pos h2, if_pos h2, List.getD_eq_getElem?_getD, List.getElem?_eq_none h3, Option.getD_none]
    · simp only [h1, h2, if_false]

@[simp] theorem le16_length (v : Half) : (le16 v).length = 2 := rfl

@[simp] theorem le32_length (v : Word) : (le32 v).length = 4 := rfl

/-- Writing a little-endian field and reading it back gives the value (20_memory R50). -/
theorem readHalf_memWrite_le16 {m : Memory} (h : m.wf = true) (addr : Nat) (v : Half) :
    readHalf (memWrite m addr (le16 v)) addr = v := by
  have h0 : readByte (memWrite m addr (le16 v)) addr = v.extractLsb' 0 8 := by
    rw [readByte_memWrite h, if_pos (by simp)]; simp [le16]
  have h1 : readByte (memWrite m addr (le16 v)) (addr + 1) = v.extractLsb' 8 8 := by
    rw [readByte_memWrite h, if_pos (by simp)]; simp [le16]
  rw [readHalf, h0, h1]
  apply BitVec.eq_of_getLsbD_eq
  intro i hi
  rw [BitVec.getLsbD_append]
  by_cases h8 : i < 8
  · simp [h8]
  · have h9 : i - 8 < 8 := by omega
    have h10 : 8 + (i - 8) = i := by omega
    simp [h8, h9, h10]

end Sys2Proof.Machine
end

