-- ==== Sys2Proof/Laws/State.lean ====
section
/-! SUPPORT. One lemma per field per update: what each named update writes, and that it leaves every other field as it
was. -/

namespace Sys2Proof.Machine

/-! emit -/
@[simp] theorem emit_params (e : Event) (s : State) : (emit e s).params = s.params := rfl
@[simp] theorem emit_ring (e : Event) (s : State) : (emit e s).ring = s.ring := rfl
@[simp] theorem emit_cap (e : Event) (s : State) : (emit e s).cap = s.cap := rfl
@[simp] theorem emit_crc (e : Event) (s : State) : (emit e s).crc = s.crc := rfl
@[simp] theorem emit_framer (e : Event) (s : State) : (emit e s).framer = s.framer := rfl
@[simp] theorem emit_pkt (e : Event) (s : State) : (emit e s).pkt = s.pkt := rfl
@[simp] theorem emit_telem (e : Event) (s : State) : (emit e s).telem = s.telem := rfl
@[simp] theorem emit_cfg (e : Event) (s : State) : (emit e s).cfg = s.cfg := rfl
@[simp] theorem emit_errCode (e : Event) (s : State) : (emit e s).errCode = s.errCode := rfl
@[simp] theorem emit_out (e : Event) (s : State) : (emit e s).out = s.out ++ [e] := rfl
@[simp] theorem emit_env (e : Event) (s : State) : (emit e s).env = s.env := rfl

/-! setPhase -/
@[simp] theorem setPhase_params (p : BitVec 4) (s : State) : (setPhase p s).params = s.params := rfl
@[simp] theorem setPhase_ring (p : BitVec 4) (s : State) : (setPhase p s).ring = s.ring := rfl
@[simp] theorem setPhase_cap (p : BitVec 4) (s : State) : (setPhase p s).cap = s.cap := rfl
@[simp] theorem setPhase_crc (p : BitVec 4) (s : State) : (setPhase p s).crc = s.crc := rfl
@[simp] theorem setPhase_framer (p : BitVec 4) (s : State) : (setPhase p s).framer = { s.framer with phase := p } := rfl
@[simp] theorem setPhase_pkt (p : BitVec 4) (s : State) : (setPhase p s).pkt = s.pkt := rfl
@[simp] theorem setPhase_telem (p : BitVec 4) (s : State) : (setPhase p s).telem = s.telem := rfl
@[simp] theorem setPhase_cfg (p : BitVec 4) (s : State) : (setPhase p s).cfg = s.cfg := rfl
@[simp] theorem setPhase_errCode (p : BitVec 4) (s : State) : (setPhase p s).errCode = s.errCode := rfl
@[simp] theorem setPhase_out (p : BitVec 4) (s : State) : (setPhase p s).out = s.out := rfl
@[simp] theorem setPhase_env (p : BitVec 4) (s : State) : (setPhase p s).env = s.env := rfl

/-! complete -/
@[simp] theorem complete_params (c : BitVec 8) (v : Word) (s : State) : (complete c v s).params = s.params := rfl
@[simp] theorem complete_ring (c : BitVec 8) (v : Word) (s : State) : (complete c v s).ring = s.ring := rfl
@[simp] theorem complete_cap (c : BitVec 8) (v : Word) (s : State) : (complete c v s).cap = s.cap := rfl
@[simp] theorem complete_crc (c : BitVec 8) (v : Word) (s : State) : (complete c v s).crc = s.crc := rfl
@[simp] theorem complete_framer (c : BitVec 8) (v : Word) (s : State) : (complete c v s).framer = s.framer := rfl
@[simp] theorem complete_pkt (c : BitVec 8) (v : Word) (s : State) : (complete c v s).pkt = s.pkt := rfl
@[simp] theorem complete_telem (c : BitVec 8) (v : Word) (s : State) : (complete c v s).telem = s.telem := rfl
@[simp] theorem complete_cfg (c : BitVec 8) (v : Word) (s : State) : (complete c v s).cfg = s.cfg := rfl
@[simp] theorem complete_errCode (c : BitVec 8) (v : Word) (s : State) : (complete c v s).errCode = c := rfl
@[simp] theorem complete_out (c : BitVec 8) (v : Word) (s : State) : (complete c v s).out = s.out ++ [.ctlResp c v] := rfl
@[simp] theorem complete_env (c : BitVec 8) (v : Word) (s : State) : (complete c v s).env = s.env := rfl

/-! reject -/
@[simp] theorem reject_params (c : BitVec 8) (s : State) : (reject c s).params = s.params := rfl
@[simp] theorem reject_ring (c : BitVec 8) (s : State) : (reject c s).ring = s.ring := rfl
@[simp] theorem reject_cap (c : BitVec 8) (s : State) : (reject c s).cap = s.cap := rfl
@[simp] theorem reject_crc (c : BitVec 8) (s : State) : (reject c s).crc = s.crc := rfl
@[simp] theorem reject_framer (c : BitVec 8) (s : State) : (reject c s).framer = s.framer := rfl
@[simp] theorem reject_pkt (c : BitVec 8) (s : State) : (reject c s).pkt = s.pkt := rfl
@[simp] theorem reject_telem (c : BitVec 8) (s : State) : (reject c s).telem = s.telem := rfl
@[simp] theorem reject_cfg (c : BitVec 8) (s : State) : (reject c s).cfg = s.cfg := rfl
@[simp] theorem reject_errCode (c : BitVec 8) (s : State) : (reject c s).errCode = c := rfl
@[simp] theorem reject_out (c : BitVec 8) (s : State) : (reject c s).out = s.out ++ [.ctlResp c 0#32] := rfl
@[simp] theorem reject_env (c : BitVec 8) (s : State) : (reject c s).env = s.env := rfl

/-! completeOk -/
@[simp] theorem completeOk_params (s : State) : (completeOk s).params = s.params := rfl
@[simp] theorem completeOk_ring (s : State) : (completeOk s).ring = s.ring := rfl
@[simp] theorem completeOk_cap (s : State) : (completeOk s).cap = s.cap := rfl
@[simp] theorem completeOk_crc (s : State) : (completeOk s).crc = s.crc := rfl
@[simp] theorem completeOk_framer (s : State) : (completeOk s).framer = s.framer := rfl
@[simp] theorem completeOk_pkt (s : State) : (completeOk s).pkt = s.pkt := rfl
@[simp] theorem completeOk_telem (s : State) : (completeOk s).telem = s.telem := rfl
@[simp] theorem completeOk_cfg (s : State) : (completeOk s).cfg = s.cfg := rfl
@[simp] theorem completeOk_errCode (s : State) : (completeOk s).errCode = 0#8 := rfl
@[simp] theorem completeOk_out (s : State) : (completeOk s).out = s.out ++ [.ctlResp 0#8 0#32] := rfl
@[simp] theorem completeOk_env (s : State) : (completeOk s).env = s.env := rfl

/-! setOpResult -/
@[simp] theorem setOpResult_params (r : OpResult) (s : State) : (setOpResult r s).params = s.params := rfl
@[simp] theorem setOpResult_ring (r : OpResult) (s : State) : (setOpResult r s).ring = s.ring := rfl
@[simp] theorem setOpResult_cap (r : OpResult) (s : State) : (setOpResult r s).cap = s.cap := rfl
@[simp] theorem setOpResult_crc (r : OpResult) (s : State) : (setOpResult r s).crc = s.crc := rfl
@[simp] theorem setOpResult_framer (r : OpResult) (s : State) : (setOpResult r s).framer = s.framer := rfl
@[simp] theorem setOpResult_pkt (r : OpResult) (s : State) : (setOpResult r s).pkt = s.pkt := rfl
@[simp] theorem setOpResult_telem (r : OpResult) (s : State) : (setOpResult r s).telem = s.telem := rfl
@[simp] theorem setOpResult_cfg (r : OpResult) (s : State) : (setOpResult r s).cfg = s.cfg := rfl
@[simp] theorem setOpResult_errCode (r : OpResult) (s : State) : (setOpResult r s).errCode = s.errCode := rfl
@[simp] theorem setOpResult_out (r : OpResult) (s : State) : (setOpResult r s).out = s.out := rfl
@[simp] theorem setOpResult_env (r : OpResult) (s : State) : (setOpResult r s).env = { s.env with opResult := r } := rfl

/-! crcInitOp -/
@[simp] theorem crcInitOp_params (s : State) : (crcInitOp s).params = s.params := rfl
@[simp] theorem crcInitOp_ring (s : State) : (crcInitOp s).ring = s.ring := rfl
@[simp] theorem crcInitOp_cap (s : State) : (crcInitOp s).cap = s.cap := rfl
@[simp] theorem crcInitOp_crc (s : State) : (crcInitOp s).crc = 0xFFFFFFFF#32 := rfl
@[simp] theorem crcInitOp_framer (s : State) : (crcInitOp s).framer = s.framer := rfl
@[simp] theorem crcInitOp_pkt (s : State) : (crcInitOp s).pkt = s.pkt := rfl
@[simp] theorem crcInitOp_telem (s : State) : (crcInitOp s).telem = s.telem := rfl
@[simp] theorem crcInitOp_cfg (s : State) : (crcInitOp s).cfg = s.cfg := rfl
@[simp] theorem crcInitOp_errCode (s : State) : (crcInitOp s).errCode = s.errCode := rfl
@[simp] theorem crcInitOp_out (s : State) : (crcInitOp s).out = s.out := rfl
@[simp] theorem crcInitOp_env (s : State) : (crcInitOp s).env = s.env := rfl

/-! crcHashOp -/
@[simp] theorem crcHashOp_params (d : List Byte) (s : State) : (crcHashOp d s).params = s.params := rfl
@[simp] theorem crcHashOp_ring (d : List Byte) (s : State) : (crcHashOp d s).ring = s.ring := rfl
@[simp] theorem crcHashOp_cap (d : List Byte) (s : State) : (crcHashOp d s).cap = s.cap := rfl
@[simp] theorem crcHashOp_crc (d : List Byte) (s : State) : (crcHashOp d s).crc = crcFold s.crc d := rfl
@[simp] theorem crcHashOp_framer (d : List Byte) (s : State) : (crcHashOp d s).framer = s.framer := rfl
@[simp] theorem crcHashOp_pkt (d : List Byte) (s : State) : (crcHashOp d s).pkt = s.pkt := rfl
@[simp] theorem crcHashOp_telem (d : List Byte) (s : State) : (crcHashOp d s).telem = s.telem := rfl
@[simp] theorem crcHashOp_cfg (d : List Byte) (s : State) : (crcHashOp d s).cfg = s.cfg := rfl
@[simp] theorem crcHashOp_errCode (d : List Byte) (s : State) : (crcHashOp d s).errCode = s.errCode := rfl
@[simp] theorem crcHashOp_out (d : List Byte) (s : State) : (crcHashOp d s).out = s.out := rfl
@[simp] theorem crcHashOp_env (d : List Byte) (s : State) : (crcHashOp d s).env = s.env := rfl

/-! clearCapBuf -/
@[simp] theorem clearCapBuf_params (s : State) : (clearCapBuf s).params = s.params := rfl
@[simp] theorem clearCapBuf_ring (s : State) : (clearCapBuf s).ring = s.ring := rfl
@[simp] theorem clearCapBuf_cap (s : State) : (clearCapBuf s).cap = { bytes := memZero s.cap.bytes 0 s.params.payloadMax, len := 0#16 } := rfl
@[simp] theorem clearCapBuf_crc (s : State) : (clearCapBuf s).crc = s.crc := rfl
@[simp] theorem clearCapBuf_framer (s : State) : (clearCapBuf s).framer = s.framer := rfl
@[simp] theorem clearCapBuf_pkt (s : State) : (clearCapBuf s).pkt = s.pkt := rfl
@[simp] theorem clearCapBuf_telem (s : State) : (clearCapBuf s).telem = s.telem := rfl
@[simp] theorem clearCapBuf_cfg (s : State) : (clearCapBuf s).cfg = s.cfg := rfl
@[simp] theorem clearCapBuf_errCode (s : State) : (clearCapBuf s).errCode = s.errCode := rfl
@[simp] theorem clearCapBuf_out (s : State) : (clearCapBuf s).out = s.out := rfl
@[simp] theorem clearCapBuf_env (s : State) : (clearCapBuf s).env = s.env := rfl

/-! signalWake -/
@[simp] theorem signalWake_params (b : Bool) (s : State) : (signalWake b s).params = s.params := rfl
@[simp] theorem signalWake_ring (b : Bool) (s : State) : (signalWake b s).ring = s.ring := rfl
@[simp] theorem signalWake_cap (b : Bool) (s : State) : (signalWake b s).cap = s.cap := rfl
@[simp] theorem signalWake_crc (b : Bool) (s : State) : (signalWake b s).crc = s.crc := rfl
@[simp] theorem signalWake_framer (b : Bool) (s : State) : (signalWake b s).framer = { s.framer with wake := s.framer.wake || b } := rfl
@[simp] theorem signalWake_pkt (b : Bool) (s : State) : (signalWake b s).pkt = s.pkt := rfl
@[simp] theorem signalWake_telem (b : Bool) (s : State) : (signalWake b s).telem = s.telem := rfl
@[simp] theorem signalWake_cfg (b : Bool) (s : State) : (signalWake b s).cfg = s.cfg := rfl
@[simp] theorem signalWake_errCode (b : Bool) (s : State) : (signalWake b s).errCode = s.errCode := rfl
@[simp] theorem signalWake_out (b : Bool) (s : State) : (signalWake b s).out = s.out := rfl
@[simp] theorem signalWake_env (b : Bool) (s : State) : (signalWake b s).env = s.env := rfl

/-! setRun -/
@[simp] theorem setRun_params (b : Bool) (s : State) : (setRun b s).params = s.params := rfl
@[simp] theorem setRun_ring (b : Bool) (s : State) : (setRun b s).ring = s.ring := rfl
@[simp] theorem setRun_cap (b : Bool) (s : State) : (setRun b s).cap = s.cap := rfl
@[simp] theorem setRun_crc (b : Bool) (s : State) : (setRun b s).crc = s.crc := rfl
@[simp] theorem setRun_framer (b : Bool) (s : State) : (setRun b s).framer = s.framer := rfl
@[simp] theorem setRun_pkt (b : Bool) (s : State) : (setRun b s).pkt = s.pkt := rfl
@[simp] theorem setRun_telem (b : Bool) (s : State) : (setRun b s).telem = s.telem := rfl
@[simp] theorem setRun_cfg (b : Bool) (s : State) : (setRun b s).cfg = { s.cfg with run := b } := rfl
@[simp] theorem setRun_errCode (b : Bool) (s : State) : (setRun b s).errCode = s.errCode := rfl
@[simp] theorem setRun_out (b : Bool) (s : State) : (setRun b s).out = s.out := rfl
@[simp] theorem setRun_env (b : Bool) (s : State) : (setRun b s).env = s.env := rfl

/-! startFresh -/
@[simp] theorem startFresh_params (s : State) : (startFresh s).params = s.params := rfl
@[simp] theorem startFresh_ring (s : State) : (startFresh s).ring = s.ring := rfl
@[simp] theorem startFresh_cap (s : State) : (startFresh s).cap = s.cap := rfl
@[simp] theorem startFresh_crc (s : State) : (startFresh s).crc = s.crc := rfl
@[simp] theorem startFresh_framer (s : State) : (startFresh s).framer = { s.framer with seq := 0#32, cyc := 0, autostopped := false } := rfl
@[simp] theorem startFresh_pkt (s : State) : (startFresh s).pkt = s.pkt := rfl
@[simp] theorem startFresh_telem (s : State) : (startFresh s).telem = s.telem := rfl
@[simp] theorem startFresh_cfg (s : State) : (startFresh s).cfg = s.cfg := rfl
@[simp] theorem startFresh_errCode (s : State) : (startFresh s).errCode = s.errCode := rfl
@[simp] theorem startFresh_out (s : State) : (startFresh s).out = s.out ++ [.notifyLineActive s.cfg.lineSel] := rfl
@[simp] theorem startFresh_env (s : State) : (startFresh s).env = s.env := rfl

/-! writePkt -/
@[simp] theorem writePkt_params (off : Nat) (bs : List Byte) (s : State) : (writePkt off bs s).params = s.params := rfl
@[simp] theorem writePkt_ring (off : Nat) (bs : List Byte) (s : State) : (writePkt off bs s).ring = s.ring := rfl
@[simp] theorem writePkt_cap (off : Nat) (bs : List Byte) (s : State) : (writePkt off bs s).cap = s.cap := rfl
@[simp] theorem writePkt_crc (off : Nat) (bs : List Byte) (s : State) : (writePkt off bs s).crc = s.crc := rfl
@[simp] theorem writePkt_framer (off : Nat) (bs : List Byte) (s : State) : (writePkt off bs s).framer = s.framer := rfl
@[simp] theorem writePkt_pkt (off : Nat) (bs : List Byte) (s : State) : (writePkt off bs s).pkt = memWrite s.pkt off bs := rfl
@[simp] theorem writePkt_telem (off : Nat) (bs : List Byte) (s : State) : (writePkt off bs s).telem = s.telem := rfl
@[simp] theorem writePkt_cfg (off : Nat) (bs : List Byte) (s : State) : (writePkt off bs s).cfg = s.cfg := rfl
@[simp] theorem writePkt_errCode (off : Nat) (bs : List Byte) (s : State) : (writePkt off bs s).errCode = s.errCode := rfl
@[simp] theorem writePkt_out (off : Nat) (bs : List Byte) (s : State) : (writePkt off bs s).out = s.out := rfl
@[simp] theorem writePkt_env (off : Nat) (bs : List Byte) (s : State) : (writePkt off bs s).env = s.env := rfl

/-! writePayload -/
@[simp] theorem writePayload_params (bs : List Byte) (s : State) : (writePayload bs s).params = s.params := rfl
@[simp] theorem writePayload_ring (bs : List Byte) (s : State) : (writePayload bs s).ring = s.ring := rfl
@[simp] theorem writePayload_cap (bs : List Byte) (s : State) : (writePayload bs s).cap = s.cap := rfl
@[simp] theorem writePayload_crc (bs : List Byte) (s : State) : (writePayload bs s).crc = s.crc := rfl
@[simp] theorem writePayload_framer (bs : List Byte) (s : State) : (writePayload bs s).framer = s.framer := rfl
@[simp] theorem writePayload_pkt (bs : List Byte) (s : State) : (writePayload bs s).pkt = memWritePadded s.pkt offPayload s.params.payloadMax bs := rfl
@[simp] theorem writePayload_telem (bs : List Byte) (s : State) : (writePayload bs s).telem = s.telem := rfl
@[simp] theorem writePayload_cfg (bs : List Byte) (s : State) : (writePayload bs s).cfg = s.cfg := rfl
@[simp] theorem writePayload_errCode (bs : List Byte) (s : State) : (writePayload bs s).errCode = s.errCode := rfl
@[simp] theorem writePayload_out (bs : List Byte) (s : State) : (writePayload bs s).out = s.out := rfl
@[simp] theorem writePayload_env (bs : List Byte) (s : State) : (writePayload bs s).env = s.env := rfl

/-! startCycle -/
@[simp] theorem startCycle_params (s : State) : (startCycle s).params = s.params := rfl
@[simp] theorem startCycle_ring (s : State) : (startCycle s).ring = s.ring := rfl
@[simp] theorem startCycle_cap (s : State) : (startCycle s).cap = s.cap := rfl
@[simp] theorem startCycle_crc (s : State) : (startCycle s).crc = s.crc := rfl
@[simp] theorem startCycle_pkt (s : State) : (startCycle s).pkt = s.pkt := rfl
@[simp] theorem startCycle_telem (s : State) : (startCycle s).telem = s.telem := rfl
@[simp] theorem startCycle_cfg (s : State) : (startCycle s).cfg = s.cfg := rfl
@[simp] theorem startCycle_errCode (s : State) : (startCycle s).errCode = s.errCode := rfl
@[simp] theorem startCycle_out (s : State) : (startCycle s).out = s.out := rfl
@[simp] theorem startCycle_env (s : State) : (startCycle s).env = s.env := rfl

/-! endSleep -/
@[simp] theorem endSleep_params (p : BitVec 4) (s : State) : (endSleep p s).params = s.params := rfl
@[simp] theorem endSleep_ring (p : BitVec 4) (s : State) : (endSleep p s).ring = s.ring := rfl
@[simp] theorem endSleep_cap (p : BitVec 4) (s : State) : (endSleep p s).cap = s.cap := rfl
@[simp] theorem endSleep_crc (p : BitVec 4) (s : State) : (endSleep p s).crc = s.crc := rfl
@[simp] theorem endSleep_framer (p : BitVec 4) (s : State) : (endSleep p s).framer = { s.framer with wake := false, phase := p } := rfl
@[simp] theorem endSleep_pkt (p : BitVec 4) (s : State) : (endSleep p s).pkt = s.pkt := rfl
@[simp] theorem endSleep_telem (p : BitVec 4) (s : State) : (endSleep p s).telem = s.telem := rfl
@[simp] theorem endSleep_cfg (p : BitVec 4) (s : State) : (endSleep p s).cfg = s.cfg := rfl
@[simp] theorem endSleep_errCode (p : BitVec 4) (s : State) : (endSleep p s).errCode = s.errCode := rfl
@[simp] theorem endSleep_out (p : BitVec 4) (s : State) : (endSleep p s).out = s.out := rfl
@[simp] theorem endSleep_env (p : BitVec 4) (s : State) : (endSleep p s).env = s.env := rfl

/-! txAccept -/
@[simp] theorem txAccept_params (k : Nat) (s : State) : (txAccept k s).params = s.params := rfl
@[simp] theorem txAccept_ring (k : Nat) (s : State) : (txAccept k s).ring = s.ring := rfl
@[simp] theorem txAccept_cap (k : Nat) (s : State) : (txAccept k s).cap = s.cap := rfl
@[simp] theorem txAccept_crc (k : Nat) (s : State) : (txAccept k s).crc = s.crc := rfl
@[simp] theorem txAccept_pkt (k : Nat) (s : State) : (txAccept k s).pkt = s.pkt := rfl
@[simp] theorem txAccept_telem (k : Nat) (s : State) : (txAccept k s).telem = s.telem := rfl
@[simp] theorem txAccept_cfg (k : Nat) (s : State) : (txAccept k s).cfg = s.cfg := rfl
@[simp] theorem txAccept_errCode (k : Nat) (s : State) : (txAccept k s).errCode = s.errCode := rfl
@[simp] theorem txAccept_out (k : Nat) (s : State) : (txAccept k s).out = s.out ++ [.txBytes (memRead s.pkt s.framer.txOff k)] := rfl
@[simp] theorem txAccept_env (k : Nat) (s : State) : (txAccept k s).env = s.env := rfl

/-! txStall -/
@[simp] theorem txStall_params (s : State) : (txStall s).params = s.params := by unfold txStall; split <;> rfl
@[simp] theorem txStall_ring (s : State) : (txStall s).ring = s.ring := by unfold txStall; split <;> rfl
@[simp] theorem txStall_cap (s : State) : (txStall s).cap = s.cap := by unfold txStall; split <;> rfl
@[simp] theorem txStall_crc (s : State) : (txStall s).crc = s.crc := by unfold txStall; split <;> rfl
@[simp] theorem txStall_pkt (s : State) : (txStall s).pkt = s.pkt := by unfold txStall; split <;> rfl
@[simp] theorem txStall_telem (s : State) : (txStall s).telem = s.telem := by unfold txStall; split <;> rfl
@[simp] theorem txStall_errCode (s : State) : (txStall s).errCode = s.errCode := by unfold txStall; split <;> rfl
@[simp] theorem txStall_out (s : State) : (txStall s).out = s.out := by unfold txStall; split <;> rfl
@[simp] theorem txStall_env (s : State) : (txStall s).env = s.env := by unfold txStall; split <;> rfl

/-! pushTurn -/
@[simp] theorem pushTurn_params (t : Turn) (s : State) : (pushTurn t s).params = s.params := rfl
@[simp] theorem pushTurn_ring (t : Turn) (s : State) : (pushTurn t s).ring = s.ring := rfl
@[simp] theorem pushTurn_cap (t : Turn) (s : State) : (pushTurn t s).cap = s.cap := rfl
@[simp] theorem pushTurn_crc (t : Turn) (s : State) : (pushTurn t s).crc = s.crc := rfl
@[simp] theorem pushTurn_framer (t : Turn) (s : State) : (pushTurn t s).framer = s.framer := rfl
@[simp] theorem pushTurn_pkt (t : Turn) (s : State) : (pushTurn t s).pkt = s.pkt := rfl
@[simp] theorem pushTurn_telem (t : Turn) (s : State) : (pushTurn t s).telem = s.telem := rfl
@[simp] theorem pushTurn_cfg (t : Turn) (s : State) : (pushTurn t s).cfg = s.cfg := rfl
@[simp] theorem pushTurn_errCode (t : Turn) (s : State) : (pushTurn t s).errCode = s.errCode := rfl
@[simp] theorem pushTurn_out (t : Turn) (s : State) : (pushTurn t s).out = s.out := rfl
@[simp] theorem pushTurn_env (t : Turn) (s : State) : (pushTurn t s).env = { s.env with turns := t :: s.env.turns } := rfl

/-! afterTurn -/
@[simp] theorem afterTurn_params (s : State) : (afterTurn s).params = s.params := by unfold afterTurn; split <;> rfl
@[simp] theorem afterTurn_ring (s : State) : (afterTurn s).ring = s.ring := by unfold afterTurn; split <;> rfl
@[simp] theorem afterTurn_cap (s : State) : (afterTurn s).cap = s.cap := by unfold afterTurn; split <;> rfl
@[simp] theorem afterTurn_crc (s : State) : (afterTurn s).crc = s.crc := by unfold afterTurn; split <;> rfl
@[simp] theorem afterTurn_framer (s : State) : (afterTurn s).framer = s.framer := by unfold afterTurn; split <;> rfl
@[simp] theorem afterTurn_pkt (s : State) : (afterTurn s).pkt = s.pkt := by unfold afterTurn; split <;> rfl
@[simp] theorem afterTurn_telem (s : State) : (afterTurn s).telem = s.telem := by unfold afterTurn; split <;> rfl
@[simp] theorem afterTurn_cfg (s : State) : (afterTurn s).cfg = s.cfg := by unfold afterTurn; split <;> rfl
@[simp] theorem afterTurn_errCode (s : State) : (afterTurn s).errCode = s.errCode := by unfold afterTurn; split <;> rfl
@[simp] theorem afterTurn_out (s : State) : (afterTurn s).out = s.out := by unfold afterTurn; split <;> rfl

/-! drawMeas, drawChannels, drawTx: only `env` changes -/
@[simp] theorem drawMeas_params (s : State) : (drawMeas s).2.params = s.params := by unfold drawMeas; split <;> rfl
@[simp] theorem drawMeas_ring (s : State) : (drawMeas s).2.ring = s.ring := by unfold drawMeas; split <;> rfl
@[simp] theorem drawMeas_cap (s : State) : (drawMeas s).2.cap = s.cap := by unfold drawMeas; split <;> rfl
@[simp] theorem drawMeas_crc (s : State) : (drawMeas s).2.crc = s.crc := by unfold drawMeas; split <;> rfl
@[simp] theorem drawMeas_framer (s : State) : (drawMeas s).2.framer = s.framer := by unfold drawMeas; split <;> rfl
@[simp] theorem drawMeas_pkt (s : State) : (drawMeas s).2.pkt = s.pkt := by unfold drawMeas; split <;> rfl
@[simp] theorem drawMeas_telem (s : State) : (drawMeas s).2.telem = s.telem := by unfold drawMeas; split <;> rfl
@[simp] theorem drawMeas_cfg (s : State) : (drawMeas s).2.cfg = s.cfg := by unfold drawMeas; split <;> rfl
@[simp] theorem drawMeas_errCode (s : State) : (drawMeas s).2.errCode = s.errCode := by unfold drawMeas; split <;> rfl
@[simp] theorem drawMeas_out (s : State) : (drawMeas s).2.out = s.out := by unfold drawMeas; split <;> rfl
@[simp] theorem drawTx_params (s : State) : (drawTx s).2.params = s.params := by unfold drawTx; split <;> rfl
@[simp] theorem drawTx_ring (s : State) : (drawTx s).2.ring = s.ring := by unfold drawTx; split <;> rfl
@[simp] theorem drawTx_cap (s : State) : (drawTx s).2.cap = s.cap := by unfold drawTx; split <;> rfl
@[simp] theorem drawTx_crc (s : State) : (drawTx s).2.crc = s.crc := by unfold drawTx; split <;> rfl
@[simp] theorem drawTx_framer (s : State) : (drawTx s).2.framer = s.framer := by unfold drawTx; split <;> rfl
@[simp] theorem drawTx_pkt (s : State) : (drawTx s).2.pkt = s.pkt := by unfold drawTx; split <;> rfl
@[simp] theorem drawTx_telem (s : State) : (drawTx s).2.telem = s.telem := by unfold drawTx; split <;> rfl
@[simp] theorem drawTx_cfg (s : State) : (drawTx s).2.cfg = s.cfg := by unfold drawTx; split <;> rfl
@[simp] theorem drawTx_errCode (s : State) : (drawTx s).2.errCode = s.errCode := by unfold drawTx; split <;> rfl
@[simp] theorem drawTx_out (s : State) : (drawTx s).2.out = s.out := by unfold drawTx; split <;> rfl
@[simp] theorem drawChannels_params (s : State) : (drawChannels s).2.params = s.params := by simp [drawChannels]
@[simp] theorem drawChannels_ring (s : State) : (drawChannels s).2.ring = s.ring := by simp [drawChannels]
@[simp] theorem drawChannels_cap (s : State) : (drawChannels s).2.cap = s.cap := by simp [drawChannels]
@[simp] theorem drawChannels_crc (s : State) : (drawChannels s).2.crc = s.crc := by simp [drawChannels]
@[simp] theorem drawChannels_framer (s : State) : (drawChannels s).2.framer = s.framer := by simp [drawChannels]
@[simp] theorem drawChannels_pkt (s : State) : (drawChannels s).2.pkt = s.pkt := by simp [drawChannels]
@[simp] theorem drawChannels_telem (s : State) : (drawChannels s).2.telem = s.telem := by simp [drawChannels]
@[simp] theorem drawChannels_cfg (s : State) : (drawChannels s).2.cfg = s.cfg := by simp [drawChannels]
@[simp] theorem drawChannels_errCode (s : State) : (drawChannels s).2.errCode = s.errCode := by simp [drawChannels]
@[simp] theorem drawChannels_out (s : State) : (drawChannels s).2.out = s.out := by simp [drawChannels]

/-! writeCapture, writeTake: only `pkt` changes -/
@[simp] theorem writeCapture_params (c : Capture) (l : Bool) (s : State) : (writeCapture c l s).params = s.params := rfl
@[simp] theorem writeCapture_ring (c : Capture) (l : Bool) (s : State) : (writeCapture c l s).ring = s.ring := rfl
@[simp] theorem writeCapture_cap (c : Capture) (l : Bool) (s : State) : (writeCapture c l s).cap = s.cap := rfl
@[simp] theorem writeCapture_crc (c : Capture) (l : Bool) (s : State) : (writeCapture c l s).crc = s.crc := rfl
@[simp] theorem writeCapture_framer (c : Capture) (l : Bool) (s : State) : (writeCapture c l s).framer = s.framer := rfl
@[simp] theorem writeCapture_telem (c : Capture) (l : Bool) (s : State) : (writeCapture c l s).telem = s.telem := rfl
@[simp] theorem writeCapture_cfg (c : Capture) (l : Bool) (s : State) : (writeCapture c l s).cfg = s.cfg := rfl
@[simp] theorem writeCapture_errCode (c : Capture) (l : Bool) (s : State) : (writeCapture c l s).errCode = s.errCode := rfl
@[simp] theorem writeCapture_out (c : Capture) (l : Bool) (s : State) : (writeCapture c l s).out = s.out := rfl
@[simp] theorem writeCapture_env (c : Capture) (l : Bool) (s : State) : (writeCapture c l s).env = s.env := rfl
@[simp] theorem writeTake_params (c : Option Capture) (l : Bool) (s : State) : (writeTake c l s).params = s.params := by cases c <;> rfl
@[simp] theorem writeTake_ring (c : Option Capture) (l : Bool) (s : State) : (writeTake c l s).ring = s.ring := by cases c <;> rfl
@[simp] theorem writeTake_cap (c : Option Capture) (l : Bool) (s : State) : (writeTake c l s).cap = s.cap := by cases c <;> rfl
@[simp] theorem writeTake_crc (c : Option Capture) (l : Bool) (s : State) : (writeTake c l s).crc = s.crc := by cases c <;> rfl
@[simp] theorem writeTake_framer (c : Option Capture) (l : Bool) (s : State) : (writeTake c l s).framer = s.framer := by cases c <;> rfl
@[simp] theorem writeTake_telem (c : Option Capture) (l : Bool) (s : State) : (writeTake c l s).telem = s.telem := by cases c <;> rfl
@[simp] theorem writeTake_cfg (c : Option Capture) (l : Bool) (s : State) : (writeTake c l s).cfg = s.cfg := by cases c <;> rfl
@[simp] theorem writeTake_errCode (c : Option Capture) (l : Bool) (s : State) : (writeTake c l s).errCode = s.errCode := by cases c <;> rfl
@[simp] theorem writeTake_out (c : Option Capture) (l : Bool) (s : State) : (writeTake c l s).out = s.out := by cases c <;> rfl
@[simp] theorem writeTake_env (c : Option Capture) (l : Bool) (s : State) : (writeTake c l s).env = s.env := by cases c <;> rfl

/-! assembleTake: only `pkt` and `ring` change -/
@[simp] theorem assembleTake_params (s : State) : (assembleTake s).params = s.params := by simp [assembleTake]
@[simp] theorem assembleTake_cap (s : State) : (assembleTake s).cap = s.cap := by simp [assembleTake]
@[simp] theorem assembleTake_crc (s : State) : (assembleTake s).crc = s.crc := by simp [assembleTake]
@[simp] theorem assembleTake_framer (s : State) : (assembleTake s).framer = s.framer := by simp [assembleTake]
@[simp] theorem assembleTake_telem (s : State) : (assembleTake s).telem = s.telem := by simp [assembleTake]
@[simp] theorem assembleTake_cfg (s : State) : (assembleTake s).cfg = s.cfg := by simp [assembleTake]
@[simp] theorem assembleTake_errCode (s : State) : (assembleTake s).errCode = s.errCode := by simp [assembleTake]
@[simp] theorem assembleTake_out (s : State) : (assembleTake s).out = s.out := by simp [assembleTake]
@[simp] theorem assembleTake_env (s : State) : (assembleTake s).env = s.env := by simp [assembleTake]
@[simp] theorem assembleTake_ring (s : State) :
    (assembleTake s).ring = { (ringTakeOp s.ring).2 with lostPending := false } := by simp [assembleTake]

/-! the registers of startCycle -/
@[simp] theorem startCycle_framer (s : State) :
    (startCycle s).framer
      = { s.framer with
          seq := s.framer.seq + 1#32, pending0 := s.ring.w != s.ring.r, aborted := false, wake := false
          phase := if s.framer.cyc = 0 then phTelem else phAssemble } := rfl

/-! setSlot -/
@[simp] theorem setSlot_w (g : Ring) (i : Nat) (v : Slot) : (setSlot g i v).w = g.w := rfl
@[simp] theorem setSlot_r (g : Ring) (i : Nat) (v : Slot) : (setSlot g i v).r = g.r := rfl
@[simp] theorem setSlot_lostPending (g : Ring) (i : Nat) (v : Slot) : (setSlot g i v).lostPending = g.lostPending := rfl
@[simp] theorem setSlot_drops (g : Ring) (i : Nat) (v : Slot) : (setSlot g i v).drops = g.drops := rfl
@[simp] theorem setSlot_slots (g : Ring) (i : Nat) (v : Slot) : (setSlot g i v).slots = g.slots.set i v := rfl
@[simp] theorem setSlot_nslots (g : Ring) (i : Nat) (v : Slot) : (setSlot g i v).nslots = g.nslots := by
  simp [Ring.nslots]

/-! the environment after a turn is taken -/
@[simp] theorem afterTurn_measIn (s : State) : (afterTurn s).env.measIn = s.env.measIn := by unfold afterTurn; split <;> rfl
@[simp] theorem afterTurn_measCount (s : State) : (afterTurn s).env.measCount = s.env.measCount := by
  unfold afterTurn; split <;> rfl
@[simp] theorem afterTurn_txIn (s : State) : (afterTurn s).env.txIn = s.env.txIn := by unfold afterTurn; split <;> rfl
@[simp] theorem afterTurn_txCount (s : State) : (afterTurn s).env.txCount = s.env.txCount := by
  unfold afterTurn; split <;> rfl
@[simp] theorem afterTurn_opResult (s : State) : (afterTurn s).env.opResult = s.env.opResult := by
  unfold afterTurn; split <;> rfl
@[simp] theorem afterTurn_turns (s : State) : (afterTurn s).env.turns = s.env.turns.tail := by
  unfold afterTurn; split <;> simp_all

end Sys2Proof.Machine
end

