-- ==== Sys2Proof/Laws/Ops.lean ====
section
/-! SUPPORT. One law per shared operation: everything it can do, said once, to be cited instead of unfolding it. -/

namespace Sys2Proof.Machine

/-! ### Parameters -/

@[simp] theorem config_hdrLen : Config.hdrLen = 20 := rfl
@[simp] theorem config_trailerLen : Config.trailerLen = 4 := rfl

/-- TAKE_CYCLES, PAYLOAD_MAX and PKT_LEN, written out (00_scope R7). -/
theorem takeCycles_eq (p : Params) : p.takeCycles = p.k - 2 := rfl
theorem payloadMax_eq (p : Params) : p.payloadMax = p.span - 20 := rfl
theorem pktLen_eq (p : Params) : p.pktLen = p.span + 4 := rfl

/-- The span is the header and the payload (20_memory R47). -/
theorem span_eq_of_ok {p : Params} (h : p.ok) : p.span = 20 + p.payloadMax := by
  have h' : 20 < p.span := h.2.2.2.1
  rw [payloadMax_eq]
  omega

/-- The reference values meet the constraints of 00_scope R7. -/
theorem reference_ok : Params.reference.ok := by decide

/-- NSLOTS is at least 2 (00_scope R7). -/
theorem two_le_nslots : 2 ≤ Config.nslots := by unfold Config.nslots; omega

/-! ### Byte lists -/

/-- The span is `MemRead(PKT, 0, SPAN)` (43_framer R124). -/
theorem pktSpan_eq (span : Nat) (m : Memory) : pktSpan span m = memRead m 0 span := by cases m <;> rfl

@[simp] theorem pktSpan_length (span : Nat) (m : Memory) : (pktSpan span m).length = span := by simp [pktSpan_eq]

/-! ### Counts -/

/-- The saturating increment (00_scope R13). -/
theorem satInc_toNat (v : Word) : (satInc v).toNat = min (v.toNat + 1) (2 ^ 32 - 1) := by
  unfold satInc
  have hv := v.isLt
  split
  · next h => subst h; rfl
  · next h =>
    have hne : v.toNat ≠ 4294967295 := fun e => h (BitVec.eq_of_toNat_eq e)
    simp only [BitVec.toNat_add, BitVec.toNat_ofNat]
    omega

/-! ### Slots and indices -/

/-- Reading a slot after writing one. -/
theorem getSlot_setSlot (g : Ring) (i : Nat) (v : Slot) (j : Nat) (hi : i < g.nslots) :
    getSlot (setSlot g i v) j = if j = i then v else getSlot g j := by
  unfold Ring.nslots at hi
  by_cases h : j = i
  · subst h; simp [getSlot, hi]
  · have h' : i ≠ j := fun e => h e.symm
    simp [getSlot, h, h']

/-- A slot an index names is one of the ring's slots. -/
theorem getSlot_mem {g : Ring} {i : Nat} (hi : i < g.nslots) : getSlot g i ∈ g.slots := by
  unfold Ring.nslots at hi
  simp [getSlot, List.getElem?_eq_getElem hi]

theorem nextIndex_lt {g : Ring} (h : 0 < g.nslots) (i : Nat) : nextIndex g i < g.nslots := Nat.mod_lt _ h

theorem ringCount_lt {g : Ring} (h : 0 < g.nslots) : ringCount g < g.nslots := Nat.mod_lt _ h

/-- The ring's count with its indices in range (10_state R24). -/
theorem ringCount_eq {g : Ring} (hw : g.w < g.nslots) (hr : g.r < g.nslots) :
    ringCount g = if g.r ≤ g.w then g.w - g.r else g.w + g.nslots - g.r := by
  unfold ringCount
  rw [Nat.mod_eq_of_lt hr]
  split
  · next h =>
    rw [show g.w + (g.nslots - g.r) = (g.w - g.r) + g.nslots by omega, Nat.add_mod_right, Nat.mod_eq_of_lt (by omega)]
  · next h =>
    rw [show g.w + (g.nslots - g.r) = g.w + g.nslots - g.r by omega, Nat.mod_eq_of_lt (by omega)]

/-- The next index, written out. -/
theorem nextIndex_eq {g : Ring} {i : Nat} (hi : i < g.nslots) :
    nextIndex g i = if i + 1 = g.nslots then 0 else i + 1 := by
  unfold nextIndex
  split
  · next h => rw [h, Nat.mod_self]
  · next h => rw [Nat.mod_eq_of_lt (by omega)]

@[simp] theorem unread_length (g : Ring) : (unread g).length = ringCount g := by simp [unread]

/-! ### RING_PUT and RING_TAKE -/

/-- What a put does to the ring (41_ring R88). -/
theorem ringPutOp_eq (line : Line) (ty : BitVec 8) (part : Bool) (data : List Byte) (g : Ring) :
    ringPutOp line ty part data g =
      { slots := g.slots.set g.w (putSlot (getSlot g g.w) line ty part data)
        w := nextIndex g g.w
        r := if nextIndex g g.w = g.r then nextIndex g g.r else g.r
        lostPending := if nextIndex g g.w = g.r then true else g.lostPending
        drops := if nextIndex g g.w = g.r then satInc g.drops else g.drops } := by
  unfold ringPutOp
  split <;> rfl

@[simp] theorem ringPutOp_nslots (line : Line) (ty : BitVec 8) (part : Bool) (data : List Byte) (g : Ring) :
    (ringPutOp line ty part data g).nslots = g.nslots := by
  simp [ringPutOp_eq, Ring.nslots]

/-- A put as a step: the length check, then the ring's change and nothing else (41_ring R88). -/
theorem putCapture_eq (line : Line) (ty : BitVec 8) (part : Bool) (data : List Byte) (s : State) :
    putCapture line ty part data s
      = if s.params.payloadMax < data.length then .fault .badInternalOp
        else .next { s with ring := ringPutOp line ty part data s.ring } := rfl

/-- A take from an empty ring (41_ring R89). -/
theorem ringTakeOp_empty {g : Ring} (h : g.r = g.w) : ringTakeOp g = (none, g) := by simp [ringTakeOp, h]

/-- A take from a ring that is not empty (41_ring R89). -/
theorem ringTakeOp_some {g : Ring} (h : g.r ≠ g.w) :
    ringTakeOp g =
      (some (slotCapture (getSlot g g.r)),
        { setSlot g g.r { getSlot g g.r with len := 0#16 } with r := nextIndex g g.r }) := by simp [ringTakeOp, h]

@[simp] theorem ringTakeOp_w (g : Ring) : (ringTakeOp g).2.w = g.w := by unfold ringTakeOp; split <;> rfl
@[simp] theorem ringTakeOp_drops (g : Ring) : (ringTakeOp g).2.drops = g.drops := by unfold ringTakeOp; split <;> rfl
@[simp] theorem ringTakeOp_lostPending (g : Ring) : (ringTakeOp g).2.lostPending = g.lostPending := by
  unfold ringTakeOp; split <;> rfl
@[simp] theorem ringTakeOp_nslots (g : Ring) : (ringTakeOp g).2.nslots = g.nslots := by
  unfold ringTakeOp
  split
  · rfl
  · simp [Ring.nslots]

@[simp] theorem ringClear_nslots (g : Ring) : (ringClear g).nslots = g.nslots := by simp [ringClear, Ring.nslots]

/-! ### The producer's event -/

/-- The state a producer event leaves (42_producer R101). -/
theorem producerEvent_eq (ty : BitVec 8) (part signal : Bool) (s : State) :
    producerEvent ty part signal s
      = if s.params.payloadMax < s.cap.len.toNat then .fault .badInternalOp
        else .next
          { s with
            ring := ringPutOp s.telem.active ty part (memRead s.cap.bytes 0 s.cap.len.toNat) s.ring
            cap := { bytes := memZero s.cap.bytes 0 s.params.payloadMax, len := 0#16 }
            framer := { s.framer with wake := s.framer.wake || signal }
            out := s.out ++ [.captureStop] ++ [.captureRearm] } := by
  unfold producerEvent
  rw [putCapture_eq, memRead_length]
  by_cases h : s.params.payloadMax < s.cap.len.toNat
  · simp only [emit_params, h, if_true]
  · simp only [emit_params, h, if_false]
    rfl

/-! ### Draws -/

/-- One draw from the measurement port, and what it leaves for the next (43_framer R122). -/
theorem drawMeas_answer (s : State) :
    (drawMeas s).1 = measAnswer s 0 ∧ ∀ i, measAnswer (drawMeas s).2 i = measAnswer s (i + 1) := by
  unfold drawMeas measAnswer
  split
  · next h =>
    refine ⟨by simp [h], fun i => ?_⟩
    simp [h, Nat.add_assoc, Nat.add_comm 1 i]
  · next m rest h => simp [h]

/-- The five draws of TELEM (43_framer R122). -/
theorem drawChannels_answers (s : State) :
    (drawChannels s).1 =
      { ccLineA := measAnswer s 0, ccLineB := measAnswer s 1, controlCurrent := measAnswer s 2
        busVoltage := measAnswer s 3, busCurrent := measAnswer s 4 } := by
  simp [drawChannels, drawMeas_answer]

/-- The answers keep the contract exactly when all five do (60_exceptions R181). -/
theorem withinContract_eq_some {a : PerChannel MeasAnswer} {v : PerChannel (Option Half)} :
    withinContract a = some v ↔
      a.ccLineA = .answer v.ccLineA ∧ a.ccLineB = .answer v.ccLineB ∧ a.controlCurrent = .answer v.controlCurrent
        ∧ a.busVoltage = .answer v.busVoltage ∧ a.busCurrent = .answer v.busCurrent := by
  obtain ⟨a0, a1, a2, a3, a4⟩ := a
  obtain ⟨v0, v1, v2, v3, v4⟩ := v
  cases a0 <;> cases a1 <;> cases a2 <;> cases a3 <;> cases a4 <;> simp [withinContract]

/-- A transport answer is out of range exactly when a listed one is (60_exceptions R181). -/
theorem txOverrun_iff (s : State) : txOverrun s = true ↔ offered s < txAnswer s := by
  unfold txOverrun txAnswer drawTx
  split
  · have hlt : Config.freeTx s.env.txCount % (offered s + 1) < offered s + 1 := Nat.mod_lt _ (Nat.succ_pos _)
    simp only [Bool.false_eq_true, false_iff, not_lt]
    exact Nat.lt_succ_iff.mp hlt
  · simp

/-! ### The Integrity Coder -/

/-- Folding a joined list (40_crc R86). -/
theorem crcFold_append (c : Word) (a b : List Byte) : crcFold c (a ++ b) = crcFold (crcFold c a) b := by
  induction a generalizing c with
  | nil => rfl
  | cons x a ih => exact ih (crcByte c x)

/-! ### One step -/

/-- What one step is, turn by turn (00_scope R12). -/
theorem step_eq (s : State) :
    step s =
      match nextTurn s with
      | .agent (.control w) =>
        (match decodeAt .control w [] with
        | .ok i => exec i (afterTurn s)
        | .error e => .next (reject (rejectCode e) (afterTurn s)))
      | .agent (.capture w) =>
        (match decodeAt .capture w [] with
        | .ok i => exec i (afterTurn s)
        | .error _ => .next (afterTurn s))
      | .agent .framer =>
        (match decodePhase s.framer.phase with
        | some i => exec i (afterTurn s)
        | none => .fault .badPhase)
      | .internal w d =>
        (match decodeAt .internal w d with
        | .ok i => exec i (afterTurn s)
        | .error _ => .fault .badInternalOp) := by
  unfold step fetch fetchTurn
  cases nextTurn s with
  | agent t =>
    cases t with
    | control w => simp only [fetchControl]; cases decodeAt .control w [] <;> rfl
    | capture w => simp only [fetchCapture]; cases decodeAt .capture w [] <;> rfl
    | framer => simp only [fetchFramer, afterTurn_framer]; cases decodePhase s.framer.phase <;> rfl
  | internal w d => simp only [fetchInternal]; cases decodeAt .internal w d <;> rfl

/-- A step that answers a next state ran an instruction, rejected a control word or ignored a capture word. -/
theorem step_next_cases {s t : State} (h : step s = .next t) :
    (∃ i, exec i (afterTurn s) = .next t) ∨ (∃ e, t = reject (rejectCode e) (afterTurn s)) ∨ t = afterTurn s := by
  rw [step_eq] at h
  split at h
  · split at h
    · exact .inl ⟨_, h⟩
    · cases h; exact .inr (.inl ⟨_, rfl⟩)
  · split at h
    · exact .inl ⟨_, h⟩
    · cases h; exact .inr (.inr rfl)
  · split at h
    · exact .inl ⟨_, h⟩
    · cases h
  · split at h
    · exact .inl ⟨_, h⟩
    · cases h

/-- A count that fits the 32 bits of a REG value reads as itself; of a wider one nothing is known (entry 17). -/
theorem natWord_of_lt (idx : BitVec 8) {n : Nat} (h : n < 2 ^ 32) : natWord idx n = BitVec.ofNat 32 n := if_pos h

end Sys2Proof.Machine
end

