-- ==== Sys2Proof/Laws/PerInstr.lean ====
section
/-! SUPPORT. Statements made of every instruction as syntax, one lemma per constructor of Instr. -/

namespace Sys2Proof

/-- The opcode byte of an encoded word is the opcode it was made from (30_encoding R64). -/
theorem opcodeOf_wordOf (operand : BitVec 24) (opcode : BitVec 8) : opcodeOf (wordOf operand opcode) = opcode := by
  apply BitVec.eq_of_getLsbD_eq
  intro i hi
  simp only [opcodeOf, wordOf, BitVec.getLsbD_extractLsb', BitVec.getLsbD_append, Nat.zero_add, hi, if_true,
    decide_true, Bool.true_and]

/-- Bit i of an encoded word at or above bit 8 is bit i - 8 of its operand field (30_encoding R64). -/
theorem getLsbD_wordOf (operand : BitVec 24) (opcode : BitVec 8) (i : Nat) :
    (wordOf operand opcode).getLsbD (i + 8) = operand.getLsbD i := by
  rw [wordOf, BitVec.getLsbD_append, if_neg (by omega), Nat.add_sub_cancel]

end Sys2Proof

namespace Sys2Proof.Laws.EncodingShape

/-- An instruction's encoding has the shape of its format: a word carries the opcode byte of a row of the opcode map
at that row's port, with every reserved bit of the row 0; a phase code is one of 0 to 9 (30_encoding R66, R69, R76). -/
def Statement (i : Instr) : Prop :=
  match encode i with
  | .word p w _ => ∃ row ∈ opTable, row.port = p ∧ opcodeOf w = row.opcode ∧ w &&& row.reserved = 0#32
  | .phase c => c.toNat ≤ 9

/-- The shape of a word, without the list of bytes beside it. -/
theorem of_check {p : Port} {w : Word} {d : List Byte} {i : Instr} (he : encode i = .word p w d)
    (h : ∃ row ∈ opTable, row.port = p ∧ opcodeOf w = row.opcode ∧ w &&& row.reserved = 0#32) : Statement i := by
  unfold Statement
  rw [he]
  exact h

/-- The shape of a phase code. -/
theorem of_phase {c : BitVec 4} {i : Instr} (he : encode i = .phase c) (h : c.toNat ≤ 9) : Statement i := by
  unfold Statement
  rw [he]
  exact h

theorem ctlStart (run : Bool) : Statement (.ctlStart run) :=
  by cases run <;> exact of_check rfl (by decide)

theorem ctlReset : Statement (.ctlReset) :=
  of_check rfl (by decide)

theorem ctlSetLine (sel : LineSel) : Statement (.ctlSetLine sel) :=
  by cases sel <;> exact of_check rfl (by decide)

theorem ctlSetRole (role : Role) (pull : BitVec 2) : Statement (.ctlSetRole role pull) :=
  by
  refine of_check rfl ?_
  cases role <;> revert pull <;> decide

theorem ctlSetOutmode (onCapture : Bool) : Statement (.ctlSetOutmode onCapture) :=
  by cases onCapture <;> exact of_check rfl (by decide)

theorem ctlSetAutostop (on : Bool) : Statement (.ctlSetAutostop on) :=
  by cases on <;> exact of_check rfl (by decide)

theorem ctlSetIdle (us : BitVec 24) : Statement (.ctlSetIdle us) :=
  of_check rfl
    ⟨⟨.ctlSetIdle, 0x07#8, .control, 0#32⟩, by decide, rfl, opcodeOf_wordOf us 0x07#8, BitVec.and_zero⟩

theorem ctlRead (idx : BitVec 8) : Statement (.ctlRead idx) :=
  of_check rfl (by revert idx; decide)

theorem capByte (b : Byte) : Statement (.capByte b) :=
  of_check rfl (by revert b; decide)

theorem evRxComplete (ty : BitVec 8) : Statement (.evRxComplete ty) :=
  of_check rfl (by revert ty; decide)

theorem evRxError (ty : BitVec 8) : Statement (.evRxError ty) :=
  of_check rfl (by revert ty; decide)

theorem ringPut (line : Line) (ty : BitVec 8) (part : Bool) (data : List Byte) : Statement (.ringPut line ty part data) :=
  by
  refine of_check rfl ?_
  clear data
  cases line <;> cases part <;> revert ty <;> decide

theorem ringTake : Statement (.ringTake) :=
  of_check rfl (by decide)

theorem crcInit : Statement (.crcInit) :=
  of_check rfl (by decide)

theorem crcHash (data : List Byte) : Statement (.crcHash data) :=
  of_check rfl (by decide)

theorem crcResult : Statement (.crcResult) :=
  of_check rfl (by decide)

theorem phaseStopped : Statement .phaseStopped := of_phase rfl (by decide)

theorem phaseCycleStart : Statement .phaseCycleStart := of_phase rfl (by decide)

theorem phaseTelem : Statement .phaseTelem := of_phase rfl (by decide)

theorem phaseAssemble : Statement .phaseAssemble := of_phase rfl (by decide)

theorem phaseSeal : Statement .phaseSeal := of_phase rfl (by decide)

theorem phaseTxDecide : Statement .phaseTxDecide := of_phase rfl (by decide)

theorem phaseTxWrite : Statement .phaseTxWrite := of_phase rfl (by decide)

theorem phaseTxSleep : Statement .phaseTxSleep := of_phase rfl (by decide)

theorem phaseClear : Statement .phaseClear := of_phase rfl (by decide)

theorem phaseIdleSleep : Statement .phaseIdleSleep := of_phase rfl (by decide)

end Sys2Proof.Laws.EncodingShape
end

