-- ==== Sys2Proof/Tests/Slice0.lean ====
section
/-! SUPPORT. Tests: ill-formed terms refused, decoding of written-out words, one-step vectors of 95_test_vectors (V<n>),
and for each statement with hypotheses a state and operands that meet them (witness_<its name>). -/

namespace Sys2Proof.Tests

/- One theorem at a time: many at once reserve more address space than the checks allow. -/
set_option Elab.async false

open Sys2Proof Sys2Proof.Machine

/-! ### Helpers -/

/-- Power-on with the reference parameters and NSLOTS = 4, the start state of 95_test_vectors section 0. -/
def base : State := State.powerOn Params.reference 4 0#24

/-- The state with one turn to come. -/
def turned (t : Turn) (s : State) : State := { s with env := { s.env with turns := [t] } }

/-- The state in a phase, with the framer's turn to come. -/
def inPhase (p : BitVec 4) (s : State) : State :=
  turned (.agent .framer) { s with framer := { s.framer with phase := p } }

/-- The state with answers of the measurement port and of the transport to come. -/
def answering (meas : List MeasAnswer) (tx : List Nat) (s : State) : State :=
  { s with env := { s.env with measIn := meas, txIn := tx } }

/-- Whether a step goes on, to a state with a property. -/
def after (r : Result) (p : State → Bool) : Bool :=
  match r with
  | .next t => p t
  | .fault _ => false
  | .refused _ => false

/-- Whether a step is a given fault. -/
def faults (r : Result) (f : Fault) : Bool :=
  match r with
  | .next _ => false
  | .fault g => g == f
  | .refused _ => false

theorem next_of_after {r : Result} {p : State → Bool} (h : after r p = true) : ∃ t, r = .next t ∧ p t = true := by
  cases r with
  | next t => exact ⟨t, rfl, h⟩
  | fault f => cases h
  | refused f => cases h

theorem fault_of_faults {r : Result} {f : Fault} (h : faults r f = true) : r = .fault f := by
  cases r with
  | next t => cases h
  | fault g => exact congrArg _ (of_decide_eq_true h)
  | refused g => cases h

/-- A slot that holds a capture of the bytes given. -/
def slotWith (line : Line) (ty : BitVec 8) (bs : List Byte) : Slot := putSlot Slot.empty line ty false bs

/-- A ring of four slots with its indices, slot 0 holding two bytes of type 3 on line B. -/
def ringAt (w r : Nat) : Ring :=
  { slots := [slotWith .b 3#8 [0xAA#8, 0xBB#8], Slot.empty, Slot.empty, Slot.empty]
    w := w, r := r, lostPending := false, drops := 0#32 }

/-- The base state with such a ring. -/
def ringed (w r : Nat) : State := { base with ring := ringAt w r }

/-- The capture in slot 0 of that ring. -/
def cap0 : Capture := { line := .b, ty := 3#8, part := false, len := 2#16, bytes := [0xAA#8, 0xBB#8] }

/-- A packet buffer of zeros sealed with its trailer (40_crc R82; V62: trailer 54 6D BB 0F). -/
def zeroPacket : Memory := [(508, 0x54#8), (509, 0x6D#8), (510, 0xBB#8), (511, 0x0F#8)]

/-- A state that is sending that packet, with answers of the transport to come. -/
def sending (txOff : Nat) (tx : List Nat) : State :=
  answering [] tx
    (inPhase 6#4 { base with
      pkt := zeroPacket
      framer := { base.framer with txOff := txOff }
      cfg := { base.cfg with run := true } })

/-- The invariant of a state with an empty payload, from checks a computation makes. -/
theorem inv_of_checks (s : State)
    (h : s.params = Params.reference ∧ ringOk s.params s.ring ∧ capOk s.params s.cap ∧ framerOk s.params s.framer
      ∧ s.pkt.wf = true ∧ s.pkt.within s.params.pktLen = true
      ∧ readByte s.pkt 18 = 0#8 ∧ readByte s.pkt 19 = 0#8 ∧ payloadLen s.pkt = 0
      ∧ (∀ a, a < 508 → 20 ≤ a → readByte s.pkt a = 0#8)
      ∧ (s.cfg.role = .sink → s.cfg.pull = 0#2) ∧ s.errCode.toNat ≤ 3)
    (hs : phaseIsSealed s.framer.phase = true → pktSealed s.params s.pkt) : Inv s := by
  obtain ⟨h0, h1, h2, h3, h4, h5, h6, h7, h8, h9, h10, h11⟩ := h
  have hp : s.params.span = 508 := by rw [h0]; rfl
  exact {
    params := by rw [h0]; exact reference_ok
    ring := h1, cap := h2, framer := h3
    pkt := ⟨h4, h5, h6, h7, by omega, fun a h h' => h9 a (by omega) (by simp only [offPayload] at h; omega)⟩
    isSealed := hs, emptied := fun _ => h8, role := h10, code := h11 }

/-- One part of a fold over zeros. -/
theorem zeros_fold {c d e : Word} {a b : Nat} (n : Nat) (hn : a + b = n) (h : crcFold c (zeros a) = d)
    (h' : crcFold d (zeros b) = e) : crcFold c (zeros n) = e := by
  rw [← hn, show zeros (a + b) = zeros a ++ zeros b from (List.replicate_append_replicate ..).symm, crcFold_append, h, h']

theorem zeros_part00 : crcFold 0xFFFFFFFF#32 (zeros 32) = 0xe6f5aa52#32 := by decide +kernel
theorem zeros_part01 : crcFold 0xe6f5aa52#32 (zeros 32) = 0x8a729cc9#32 := by decide +kernel
theorem zeros_part02 : crcFold 0x8a729cc9#32 (zeros 32) = 0x450b9a51#32 := by decide +kernel
theorem zeros_part03 : crcFold 0x450b9a51#32 (zeros 32) = 0x3d570562#32 := by decide +kernel
theorem zeros_part04 : crcFold 0x3d570562#32 (zeros 32) = 0x55f8ac9c#32 := by decide +kernel
theorem zeros_part05 : crcFold 0x55f8ac9c#32 (zeros 32) = 0x7400f70d#32 := by decide +kernel
theorem zeros_part06 : crcFold 0x7400f70d#32 (zeros 32) = 0xc2dea49c#32 := by decide +kernel
theorem zeros_part07 : crcFold 0xc2dea49c#32 (zeros 32) = 0xf2697aa7#32 := by decide +kernel
theorem zeros_part08 : crcFold 0xf2697aa7#32 (zeros 32) = 0x140d95ad#32 := by decide +kernel
theorem zeros_part09 : crcFold 0x140d95ad#32 (zeros 32) = 0x5238a8b2#32 := by decide +kernel
theorem zeros_part10 : crcFold 0x5238a8b2#32 (zeros 32) = 0x452b996#32 := by decide +kernel
theorem zeros_part11 : crcFold 0x452b996#32 (zeros 32) = 0x77452eb8#32 := by decide +kernel
theorem zeros_part12 : crcFold 0x77452eb8#32 (zeros 32) = 0x790ae76d#32 := by decide +kernel
theorem zeros_part13 : crcFold 0x790ae76d#32 (zeros 32) = 0xb975e9bc#32 := by decide +kernel
theorem zeros_part14 : crcFold 0xb975e9bc#32 (zeros 32) = 0x4453c72#32 := by decide +kernel
theorem zeros_part15 : crcFold 0x4453c72#32 (zeros 28) = 0xf04492ab#32 := by decide +kernel

/-- V7: the fold of 508 zero bytes. -/
theorem test_crc_of_508_zeros : crcFold 0xFFFFFFFF#32 (zeros 508) = 0xF04492AB#32 :=
  zeros_fold 508 rfl (zeros_fold 480 rfl (zeros_fold 448 rfl (zeros_fold 416 rfl (zeros_fold 384 rfl
    (zeros_fold 352 rfl (zeros_fold 320 rfl (zeros_fold 288 rfl (zeros_fold 256 rfl (zeros_fold 224 rfl
    (zeros_fold 192 rfl (zeros_fold 160 rfl (zeros_fold 128 rfl (zeros_fold 96 rfl (zeros_fold 64 rfl
    zeros_part00 zeros_part01) zeros_part02) zeros_part03) zeros_part04) zeros_part05) zeros_part06)
    zeros_part07) zeros_part08) zeros_part09) zeros_part10) zeros_part11) zeros_part12) zeros_part13)
    zeros_part14) zeros_part15

theorem memRead_zeros {m : Memory} {addr n : Nat} (h : ∀ a, addr ≤ a → a < addr + n → readByte m a = 0#8) :
    memRead m addr n = zeros n := by
  induction n generalizing addr with
  | zero => rfl
  | succ n ih =>
    rw [memRead, ih (fun a h1 h2 => h a (by omega) (by omega)), h addr (Nat.le_refl _) (by omega)]
    rfl

theorem zeroPacket_span : memRead zeroPacket 0 508 = zeros 508 := memRead_zeros fun a _ h => by
  simp only [zeroPacket, readByte]
  repeat rw [if_neg (by omega)]

theorem base_span : pktSpan 508 base.pkt = zeros 508 := (pktSpan_eq _ _).trans (memRead_zeros fun _ _ _ => rfl)

/-- V62 as the law of 40_crc R86. -/
theorem zeroPacket_sealed : pktSealed Params.reference zeroPacket := by
  show memRead zeroPacket 508 4 = le32 (crc32 (memRead zeroPacket 0 508))
  rw [zeroPacket_span, crc32, test_crc_of_508_zeros]
  decide +kernel

/-! ### WellFormed: ill-formed terms are refused (30_encoding R66, R71) -/

theorem test_sink_with_pull_refused : (Instr.ctlSetRole .sink 1#2).wellFormed Params.reference = false := by decide
theorem test_source_with_pull_accepted : (Instr.ctlSetRole .source 3#2).wellFormed Params.reference = true := by decide
theorem test_put_of_489_bytes_refused :
    (Instr.ringPut .a 0#8 false (List.replicate 489 0#8)).wellFormed Params.reference = false := by decide +kernel
theorem test_put_of_488_bytes_accepted :
    (Instr.ringPut .a 0#8 false (List.replicate 488 0#8)).wellFormed Params.reference = true := by decide +kernel

/-! ### Decoding: words of 30_encoding R77 and phase codes of R76 -/

theorem test_decode_start : decodeAt .control 0x00000101#32 [] = .ok (.ctlStart true) := by decide +kernel
theorem test_decode_stop : decodeAt .control 0x00000001#32 [] = .ok (.ctlStart false) := by decide +kernel
theorem test_decode_reset : decodeAt .control 0x00000002#32 [] = .ok .ctlReset := by decide +kernel
theorem test_decode_setline : decodeAt .control 0x00000203#32 [] = .ok (.ctlSetLine .b) := by decide +kernel
theorem test_decode_setrole : decodeAt .control 0x00000504#32 [] = .ok (.ctlSetRole .source 2#2) := by decide +kernel
theorem test_decode_outmode : decodeAt .control 0x00000105#32 [] = .ok (.ctlSetOutmode true) := by decide +kernel
theorem test_decode_autostop : decodeAt .control 0x00000006#32 [] = .ok (.ctlSetAutostop false) := by decide +kernel
theorem test_decode_idle : decodeAt .control 0x0003E807#32 [] = .ok (.ctlSetIdle 1000#24) := by decide +kernel
theorem test_decode_read : decodeAt .control 0x00001208#32 [] = .ok (.ctlRead 0x12#8) := by decide +kernel
theorem test_decode_capb : decodeAt .capture 0x00007E10#32 [] = .ok (.capByte 0x7E#8) := by decide +kernel
theorem test_decode_rxdone : decodeAt .capture 0x00000311#32 [] = .ok (.evRxComplete 3#8) := by decide +kernel
theorem test_decode_rxerr : decodeAt .capture 0x00000512#32 [] = .ok (.evRxError 5#8) := by decide +kernel
theorem test_decode_put :
    decodeAt .internal 0x00020320#32 [0x21#8, 0x22#8] = .ok (.ringPut .b 2#8 true [0x21#8, 0x22#8]) := by decide +kernel
theorem test_decode_take : decodeAt .internal 0x00000021#32 [] = .ok .ringTake := by decide +kernel
theorem test_decode_crcinit : decodeAt .internal 0x00000030#32 [] = .ok .crcInit := by decide +kernel
theorem test_decode_crchash : decodeAt .internal 0x00000031#32 [1#8] = .ok (.crcHash [1#8]) := by decide +kernel
theorem test_decode_crcresult : decodeAt .internal 0x00000032#32 [] = .ok .crcResult := by decide +kernel
theorem test_decode_phases :
    (List.range 11).map (fun c => decodePhase (BitVec.ofNat 4 c))
      = [some .phaseStopped, some .phaseCycleStart, some .phaseTelem, some .phaseAssemble, some .phaseSeal,
          some .phaseTxDecide, some .phaseTxWrite, some .phaseTxSleep, some .phaseClear, some .phaseIdleSleep, none] := by
  decide +kernel
/-- V76 to V79, V80, V86, V90, V91. -/
theorem test_decode_rejects_control_words :
    [0x00000009#32, 0x00000010#32, 0x00000000#32, 0x00000603#32, 0x00000204#32, 0x000FF008#32, 0x00010106#32,
        0x40000005#32].map (fun w => decodeAt .control w [])
      = [.error .illegalOpcode, .error .illegalOpcode, .error .illegalOpcode, .error .reservedField,
          .error .reservedField, .error .reservedField, .error .reservedField, .error .reservedField] := by
  decide +kernel
/-- V26, V27, V21. -/
theorem test_decode_rejects_other_words :
    decodeAt .capture 0x00010010#32 [] = .error .reservedField
    ∧ decodeAt .capture 0x00000013#32 [] = .error .illegalOpcode
    ∧ decodeAt .internal 0x01000020#32 [] = .error .reservedField := by decide +kernel
theorem test_table_word_runs_after_reset :
    decodeTableWord 32 0x00000303 = some (.ctlSetLine .both) ∧ decodeTableWord 4 7 = some .phaseTxSleep
    ∧ decodeTableWord 8 6 = some .phaseTxWrite := by decide +kernel

/-! ### One step: vectors of 95_test_vectors -/

/-- V93. -/
theorem test_start_notifies :
    after (exec (.ctlStart true) { base with cfg := { base.cfg with lineSel := .a } }) (fun t =>
      t.cfg.run && t.out == [.notifyLineActive .a, .ctlResp 0#8 0#32]) = true := by decide +kernel
/-- V94. -/
theorem test_start_while_running_keeps_the_phase :
    after (exec (.ctlStart true) { base with framer := { base.framer with seq := 4#32, cyc := 3, phase := 5#4 } })
      (fun t => t.framer.seq == 0#32 && t.framer.cyc == 0 && t.framer.phase == 5#4) = true := by decide +kernel
/-- P4: reset leaves the wake latch and the configuration. -/
theorem test_reset_empties_ring :
    after (exec .ctlReset { ringed 0 1 with framer := { base.framer with seq := 9#32, wake := true } }) (fun t =>
      t.ring.w == 0 && t.ring.r == 0 && (getSlot t.ring 0).len == 0#16 && (getSlot t.ring 0).line == .a
        && t.framer.seq == 0#32 && t.framer.wake) = true := by decide +kernel
/-- E5. -/
theorem test_setline_selects :
    after (exec (.ctlSetLine .b) base) (fun t =>
      t.cfg.lineSel == .b && t.out == [.selectCaptureLine .b, .ctlResp 0#8 0#32]) = true := by decide +kernel
/-- V81. -/
theorem test_setrole_forwards :
    after (step (turned (.agent (.control 0x00000704#32)) base)) (fun t =>
      t.cfg.role == .source && t.cfg.pull == 3#2 && t.out == [.selectRole .source 3#2, .ctlResp 0#8 0#32]) = true := by
  decide +kernel
/-- V80. -/
theorem test_setrole_sink_with_pull_rejected :
    after (step (turned (.agent (.control 0x00000204#32)) base)) (fun t =>
      t.cfg == base.cfg && t.errCode == 2#8 && t.out == [.ctlResp 2#8 0#32]) = true := by decide +kernel
/-- P1. -/
theorem test_outmode_sets_suppress :
    after (step (turned (.agent (.control 0x00000105#32)) base)) (fun t => t.cfg.suppress) = true := by decide +kernel
/-- E7. -/
theorem test_autostop_off :
    after (step (turned (.agent (.control 0x00000006#32)) base)) (fun t => !t.cfg.autostop) = true := by decide +kernel
/-- V87. -/
theorem test_idle_maximum :
    after (step (turned (.agent (.control 0xFFFFFF07#32)) base)) (fun t => t.cfg.idleUs == 0xFFFFFF#24) = true := by
  decide +kernel
/-- V92. -/
theorem test_read_config :
    after (exec (.ctlRead 0x01#8) { base with cfg := { base.cfg with role := .source, pull := 3#2 } }) (fun t =>
      t.out == [.ctlResp 0#8 0x5C#32]) = true := by decide +kernel
/-- V84: ERR_CODE as it was before this read. -/
theorem test_read_err_code :
    after (exec (.ctlRead 0x12#8) { base with errCode := 3#8 }) (fun t =>
      t.errCode == 0#8 && t.out == [.ctlResp 0#8 3#32]) = true := by decide +kernel
/-- 30_encoding R74: CYC at a value a block of more than 2^31 cycles reaches. -/
theorem test_read_cyc :
    after (exec (.ctlRead 0x09#8) { base with framer := { base.framer with cyc := 0x80000001 } }) (fun t =>
      t.out == [.ctlResp 0#8 0x80000001#32]) = true := by decide +kernel
/-- 42_producer R100, its example. -/
theorem test_capb_appends :
    after (exec (.capByte 0x7E#8) { base with cap := { base.cap with len := 2#16 } }) (fun t =>
      t.cap.len == 3#16 && readByte t.cap.bytes 2 == 0x7E#8) = true := by decide +kernel
/-- V25: the byte beyond PAYLOAD_MAX is discarded. -/
theorem test_capb_full_buffer :
    after (exec (.capByte 0xE8#8) { base with cap := { base.cap with len := 488#16 } }) (fun t =>
      t.cap.len == 488#16 && t.cap.bytes == []) = true := by decide +kernel
/-- V23. -/
theorem test_rxdone_of_an_empty_buffer :
    after (exec (.evRxComplete 1#8) base) (fun t =>
      t.ring.w == 1 && (getSlot t.ring 0).ty == 1#8 && !(getSlot t.ring 0).part && t.framer.wake
        && t.out == [.captureStop, .captureRearm]) = true := by decide +kernel
/-- V28. -/
theorem test_rxerr_tags_the_active_line :
    after (exec (.evRxError 7#8)
        { base with
          cap := { bytes := [(0, 5#8), (1, 6#8)], len := 2#16 }, telem := { base.telem with active := .b } }) (fun t =>
      unread t.ring == [{ line := .b, ty := 7#8, part := true, len := 2#16, bytes := [5#8, 6#8] }]
        && t.cap == { bytes := [], len := 0#16 } && !t.framer.wake) = true := by decide +kernel
/-- V14. -/
theorem test_put_on_a_full_ring :
    after (exec (.ringPut .b 9#8 false []) (ringed 3 0)) (fun t =>
      t.ring.w == 0 && t.ring.r == 1 && t.ring.drops == 1#32 && t.ring.lostPending && (getSlot t.ring 3).line == .b
        && (getSlot t.ring 3).ty == 9#8) = true := by decide +kernel
/-- V20. -/
theorem test_put_too_long :
    faults (step (turned (.internal 0x00000020#32 (List.replicate 489 0#8)) base)) .badInternalOp = true := by
  decide +kernel
/-- V15, with the capture in slot 0. -/
theorem test_take_hands_over_the_oldest :
    after (exec .ringTake (ringed 3 0)) (fun t =>
      t.env.opResult == .taken (some cap0) && t.ring.r == 1 && (getSlot t.ring 0).len == 0#16
        && (getSlot t.ring 0).ty == 3#8) = true := by decide +kernel
/-- V18. -/
theorem test_take_of_an_empty_ring :
    after (exec .ringTake (ringed 2 2)) (fun t => t.env.opResult == .taken none && t.ring == ringAt 2 2) = true := by
  decide +kernel
/-- V12. -/
theorem test_crcinit :
    after (exec .crcInit { base with crc := 0x340BC6D9#32 }) (fun t => t.crc == 0xFFFFFFFF#32) = true := by
  decide +kernel
/-- V2, V3. -/
theorem test_crchash_one_byte :
    after (exec (.crcHash [0#8]) base) (fun t => t.crc == 0x2DFD1072#32) = true
    ∧ after (exec (.crcHash [0xFF#8]) base) (fun t => t.crc == 0x00FFFFFF#32) = true := by decide +kernel
/-- V10: the coder continues from whatever it holds. -/
theorem test_crchash_without_init :
    after (exec (.crcHash [0x31#8, 0x32#8, 0x33#8, 0x34#8, 0x35#8, 0x36#8, 0x37#8, 0x38#8, 0x39#8])
      { base with crc := 0#32 }) (fun t => t.crc == 0x2DFD2D88#32) = true := by decide +kernel
/-- V11. -/
theorem test_crcresult_is_not_destructive :
    after (exec .crcResult { base with crc := 0x340BC6D9#32 }) (fun t =>
      t.crc == 0x340BC6D9#32 && t.env.opResult == .code 0xCBF43926#32) = true := by decide +kernel
/-- V74. -/
theorem test_stopped_holds : after (step (inPhase 0#4 base)) (fun t => t.framer == base.framer) = true := by
  decide +kernel
/-- V57. -/
theorem test_cycle_start :
    after (exec .phaseCycleStart { ringed 2 1 with
        framer := { base.framer with seq := 41#32, wake := true, aborted := true }
        cfg := { base.cfg with run := true } }) (fun t =>
      t.framer.seq == 42#32 && t.framer.pending0 && !t.framer.aborted && !t.framer.wake && t.framer.phase == 2#4
        && memRead t.pkt 0 4 == [0x2A#8, 0#8, 0#8, 0#8]) = true := by decide +kernel
/-- V56. -/
theorem test_cycle_start_wraps :
    after (exec .phaseCycleStart { base with
        framer := { base.framer with seq := 0xFFFFFFFF#32 }, cfg := { base.cfg with run := true } }) (fun t =>
      t.framer.seq == 0#32 && t.pkt == []) = true := by decide +kernel
/-- V54. -/
theorem test_telem_keeps_failed_channels :
    after (exec .phaseTelem (answering
        [.answer none, .answer none, .answer (some 33#16), .answer none, .answer (some 44#16)] []
        { base with telem := { base.telem with
            tel := { ccLineA := 1000#16, ccLineB := 7#16, controlCurrent := 8#16, busVoltage := 9#16
                     busCurrent := 10#16 } } })) (fun t =>
      t.telem == { tel := { ccLineA := 1000#16, ccLineB := 7#16, controlCurrent := 33#16, busVoltage := 9#16
                            busCurrent := 44#16 }
                   measErr := 0b01011#5, active := .a } && t.framer.phase == 3#4) = true := by decide +kernel
/-- V38, V39, V42 to V47, V49, V51, V53. -/
theorem test_line_heuristic :
    chooseLine Params.reference 1000#16 0#16 .a .a = .b ∧ chooseLine Params.reference 1000#16 0#16 .b .b = .a ∧ chooseLine Params.reference 500#16 0#16 .none .b = .b
    ∧ chooseLine Params.reference 501#16 0#16 .none .b = .a ∧ chooseLine Params.reference 1999#16 0#16 .none .b = .a
    ∧ chooseLine Params.reference 2000#16 0#16 .none .b = .b ∧ chooseLine Params.reference 0#16 1000#16 .none .a = .b
    ∧ chooseLine Params.reference 0#16 1000#16 .b .b = .a ∧ chooseLine Params.reference 1000#16 1000#16 .none .b = .a
    ∧ chooseLine Params.reference 0#16 0#16 .none .b = .b ∧ chooseLine Params.reference 0x8000#16 1000#16 .none .a = .b := by decide +kernel
/-- V61. -/
theorem test_assemble_of_an_empty_ring :
    after (exec .phaseAssemble { ringed 2 2 with
        ring := { ringAt 2 2 with lostPending := true }, telem := { base.telem with active := .b } }) (fun t =>
      readHalf t.pkt 14 == 0x000B#16 && !t.ring.lostPending && payloadLen t.pkt == 0) = true := by decide +kernel
/-- V60. -/
theorem test_assemble_off_a_take_cycle :
    after (exec .phaseAssemble { ringed 3 0 with framer := { base.framer with cyc := 8 } }) (fun t =>
      t.pkt == [] && t.ring == ringAt 3 0 && t.framer.phase == 4#4) = true := by decide +kernel
/-- V62. -/
theorem test_seal_of_zeros :
    crcResultOp (crcHashOp (pktSpan 508 base.pkt) (crcInitOp base)) = 0x0FBB6D54#32
    ∧ (crcHashOp (pktSpan 508 base.pkt) (crcInitOp base)).crc = 0xF04492AB#32 := by
  simp only [crcResultOp, crcHashOp, crcInitOp, base_span, test_crc_of_508_zeros]
  decide +kernel
/-- V63. -/
theorem test_tx_decide_suppresses :
    after (exec .phaseTxDecide { base with cfg := { base.cfg with suppress := true } }) (fun t =>
      t.framer.phase == 8#4) = true := by decide +kernel
/-- V64. -/
theorem test_tx_decide_sends :
    after (exec .phaseTxDecide { base with framer := { base.framer with txOff := 512, stall := 9#32 } }) (fun t =>
      t.framer.phase == 6#4 && t.framer.txOff == 0 && t.framer.stall == 0#32) = true := by decide +kernel
/-- V68. -/
theorem test_tx_write_auto_stops :
    after (exec .phaseTxWrite (answering [] [0] { base with
        framer := { base.framer with stall := 120#32 }, cfg := { base.cfg with run := true } })) (fun t =>
      t.framer.stall == 121#32 && t.framer.aborted && !t.cfg.run && t.framer.autostopped && t.framer.phase == 8#4)
      = true := by decide +kernel
/-- V66. -/
theorem test_tx_write_overrun : faults (step (sending 200 [313])) .transportOverrun = true := by decide +kernel
/-- V69. -/
theorem test_tx_sleep_clears_wake :
    after (exec .phaseTxSleep { base with framer := { base.framer with wake := true } }) (fun t =>
      !t.framer.wake && t.framer.phase == 6#4) = true := by decide +kernel
/-- V70. -/
theorem test_clear_advances_the_block :
    after (exec .phaseClear { base with
        pkt := [(0, 7#8), (14, 8#8), (16, 2#8), (20, 0x55#8), (21, 0x56#8), (508, 1#8)]
        framer := { base.framer with cyc := 9, pending0 := true } }) (fun t =>
      t.pkt == [(0, 7#8), (14, 8#8), (508, 1#8)] && t.framer.cyc == 0 && t.framer.phase == 1#4) = true := by
  decide +kernel
/-- V72. -/
theorem test_clear_after_an_abort :
    after (exec .phaseClear { base with framer := { base.framer with aborted := true } }) (fun t =>
      t.framer.phase == 0#4) = true := by decide +kernel
/-- V73. -/
theorem test_idle_sleep_ends :
    after (exec .phaseIdleSleep { base with framer := { base.framer with wake := true } }) (fun t =>
      !t.framer.wake && t.framer.phase == 1#4) = true := by decide +kernel
/-- V30 to V37. -/
theorem test_type_words :
    typeword 1#5 .a false false 0#8 = 0x0008#16 ∧ typeword 1#5 .b false false 0#8 = 0x0009#16
    ∧ typeword 1#5 .a true false 0#8 = 0x000A#16 ∧ typeword 1#5 .a false true 0#8 = 0x000C#16
    ∧ typeword 1#5 .a false false 3#8 = 0x0308#16 ∧ typeword 1#5 .b false true 0x22#8 = 0x220D#16
    ∧ typeword 1#5 .b true true 0xFF#8 = 0xFF0F#16 := by decide +kernel
/-- 43_framer R123 and R127 at other parameters (K = 3, so the last take index is 0, and PROTO_VERSION = 2). -/
theorem test_other_parameters :
    after (exec .phaseAssemble { ringed 1 0 with
        params := { Params.reference with k := 3, span := 24, protoVersion := 2#5 } }) (fun t =>
      readHalf t.pkt 14 == 0x0311#16 && memRead t.pkt 20 4 == [0xAA#8, 0xBB#8, 0#8, 0#8]) = true
    ∧ after (exec .phaseClear { base with
        params := { Params.reference with k := 3 }, framer := { base.framer with cyc := 2 } }) (fun t =>
      t.framer.cyc == 0) = true := by decide +kernel
/-- A script of two steps (30_encoding R79) as turns and answers. -/
theorem test_script_loads :
    after (runSteps 2 (loadScript [.host 0x00000101#32, .framer [] none] base)) (fun t =>
      t.framer.phase == 1#4 && t.env.turns == []) = true := by decide +kernel

/-! ### Witnesses: states and operands that meet the hypotheses of each statement -/

/-- The invariant of the base state, with any turn to come. -/
theorem inv_base (t : Turn) : Inv (turned t base) :=
  inv_of_checks _
    ⟨rfl, (by decide +kernel : ringOk Params.reference base.ring), (by decide +kernel : capOk Params.reference base.cap), (by decide +kernel : framerOk Params.reference base.framer),
      rfl, rfl, rfl, rfl, (by decide +kernel : payloadLen [] = 0), fun _ _ _ => rfl, fun _ => rfl,
      (by decide : (0 : Nat) ≤ 3)⟩
    (fun h => Bool.noConfusion (h : false = true))

/-- The invariant of a state that is sending a sealed packet. -/
theorem inv_sending {o : Nat} (ho : o < 512) (tx : List Nat) : Inv (sending o tx) :=
  inv_of_checks _
    ⟨rfl, (by decide +kernel : ringOk Params.reference base.ring), (by decide +kernel : capOk Params.reference base.cap),
      ⟨(by decide : (6#4).toNat ≤ 9), (by decide : (0 : Nat) < 10), Nat.le_of_lt ho, fun _ => ho⟩,
      (by decide +kernel : zeroPacket.wf = true), (by decide +kernel : zeroPacket.within Params.reference.pktLen = true),
      (by decide +kernel : readByte zeroPacket 18 = 0#8), (by decide +kernel : readByte zeroPacket 19 = 0#8),
      (by decide +kernel : payloadLen zeroPacket = 0),
      (by
        intro a h _
        show readByte zeroPacket a = 0#8
        simp only [zeroPacket, readByte]
        repeat rw [if_neg (by omega)]),
      fun _ => rfl, (by decide : (0 : Nat) ≤ 3)⟩
    (fun _ => zeroPacket_sealed)

/-- Parameters at the least values of the constraints of 00_scope R7, and at the greatest. -/
theorem witness_ResetMeetsInvariant :
    ({ Params.reference with k := 3, winLo := 0, winHi := 1, span := 21, stallMax := 0 } : Params).ok
    ∧ ({ Params.reference with winLo := 32766, winHi := 32767, span := 65555, stallMax := 2 ^ 32 - 2 } : Params).ok
    ∧ 2 ≤ 2 := by decide

theorem witness_StepKeepsInvariant :
    Inv (turned (.agent (.control 0x00000101#32)) base)
    ∧ ∃ t, step (turned (.agent (.control 0x00000101#32)) base) = .next t ∧ t.cfg.run = true :=
  ⟨inv_base _, next_of_after (by decide +kernel)⟩

theorem witness_StepKeepsInvariant_sending :
    Inv (sending 200 [312]) ∧ ∃ t, step (sending 200 [312]) = .next t ∧ (t.framer.phase == 8#4) = true :=
  ⟨inv_sending (by decide) _, next_of_after (by decide +kernel)⟩

theorem witness_StepKeepsParameters :
    ∃ t, step (turned (.internal 0x00010020#32 [0x11#8]) base) = .next t ∧ (t.ring.nslots == 4) = true :=
  next_of_after (by decide +kernel)

theorem witness_DecodeEncodeRoundTrip :
    (Instr.ringPut .b 0xFF#8 true (List.replicate 488 0xFF#8)).wellFormed Params.reference = true
    ∧ (Instr.ctlSetRole .sink 0#2).wellFormed Params.reference = true ∧ (Instr.ctlSetRole .source 3#2).wellFormed Params.reference = true := by
  decide +kernel

theorem witness_DecodedWordsEncodeBack :
    decodeAt .internal 0x00FF0320#32 [1#8] = .ok (.ringPut .b 0xFF#8 true [1#8])
    ∧ decodePhase 9#4 = some .phaseIdleSleep := by decide +kernel

theorem witness_PhaseCodesNamePhases :
    nextTurn (inPhase 10#4 base) = .agent .framer ∧ 10 ≤ (inPhase 10#4 base).framer.phase.toNat
    ∧ nextTurn (inPhase 15#4 base) = .agent .framer ∧ 10 ≤ (inPhase 15#4 base).framer.phase.toNat := by decide +kernel

theorem witness_StepRunsDecoded :
    (nextTurn (turned (.agent (.control 0x00000101#32)) base) = .agent (.control 0x00000101#32)
      ∧ decodeAt .control 0x00000101#32 [] = .ok (.ctlStart true))
    ∧ (nextTurn (turned (.agent (.capture 0x00007E10#32)) base) = .agent (.capture 0x00007E10#32)
      ∧ decodeAt .capture 0x00007E10#32 [] = .ok (.capByte 0x7E#8))
    ∧ (nextTurn (turned (.internal 0x00000021#32 []) base) = .internal 0x00000021#32 []
      ∧ decodeAt .internal 0x00000021#32 [] = .ok .ringTake)
    ∧ (nextTurn (inPhase 9#4 base) = .agent .framer
      ∧ decodePhase (inPhase 9#4 base).framer.phase = some .phaseIdleSleep) := by decide +kernel

/-- A control turn, for a word: opcodes 0 and 9, reserved bits at their first value, a sink with a pull strength, and
the largest legal operand of CTL_SET_ROLE. -/
theorem witness_ControlPortHandlesEveryWord :
    (∀ w, nextTurn (turned (.agent (.control w)) base) = .agent (.control w))
    ∧ ¬ opcodeAccepted .control (opcodeNat 0x00000000#32) ∧ ¬ opcodeAccepted .control (opcodeNat 0x00000009#32)
    ∧ (opcodeAccepted .control (opcodeNat 0x00000201#32)
      ∧ controlReservedSet (opcodeNat 0x00000201#32) (operandNat 0x00000201#32))
    ∧ (opcodeAccepted .control (opcodeNat 0x00000204#32)
      ∧ controlSinkWithPull (opcodeNat 0x00000204#32) (operandNat 0x00000204#32))
    ∧ (opcodeAccepted .control (opcodeNat 0x00000704#32)
      ∧ ¬ (controlReservedSet (opcodeNat 0x00000704#32) (operandNat 0x00000704#32)
        ∨ controlSinkWithPull (opcodeNat 0x00000704#32) (operandNat 0x00000704#32))) := by
  refine ⟨fun _ => rfl, ?_⟩
  simp only [opcodeAccepted, controlReservedSet, controlSinkWithPull]
  decide

theorem witness_CapturePortIgnoresOtherWords :
    (∀ w, nextTurn (turned (.agent (.capture w)) base) = .agent (.capture w))
    ∧ ¬ opcodeAccepted .capture (opcodeNat 0x0000000F#32) ∧ ¬ opcodeAccepted .capture (opcodeNat 0x00000013#32)
    ∧ 256 ≤ operandNat 0x00010010#32
    ∧ (opcodeAccepted .capture (opcodeNat 0x0000FF12#32) ∧ operandNat 0x0000FF12#32 < 256) := by
  refine ⟨fun _ => rfl, ?_⟩
  simp only [opcodeAccepted]
  decide

theorem witness_InternalWordsFaultUnlessLegal :
    (∀ w d, nextTurn (turned (.internal w d) base) = .internal w d)
    ∧ ¬ opcodeAccepted .internal (opcodeNat 0x00000033#32) ∧ ¬ opcodeAccepted .internal (opcodeNat 0x00000040#32)
    ∧ (opcodeAccepted .internal (opcodeNat 0x01000020#32)
      ∧ internalReservedSet (opcodeNat 0x01000020#32) (operandNat 0x01000020#32))
    ∧ (opcodeAccepted .internal (opcodeNat 0x00000121#32)
      ∧ internalReservedSet (opcodeNat 0x00000121#32) (operandNat 0x00000121#32))
    ∧ (opcodeNat 0x00000020#32 = 32 ∧ Params.reference.payloadMax < (List.replicate 489 0#8).length)
    ∧ (opcodeAccepted .internal (opcodeNat 0x00FF0320#32)
      ∧ ¬ internalReservedSet (opcodeNat 0x00FF0320#32) (operandNat 0x00FF0320#32)) := by
  refine ⟨fun _ _ => rfl, ?_⟩
  simp only [opcodeAccepted, internalReservedSet]
  decide +kernel

theorem witness_FaultsAreTheModelFaults_internal :
    Inv (turned (.internal 0x00000040#32 []) base)
    ∧ step (turned (.internal 0x00000040#32 []) base) = .fault .badInternalOp
    ∧ 64 ≤ opcodeNat 0x00000040#32 :=
  ⟨inv_base _, fault_of_faults (by decide +kernel), by decide⟩

theorem witness_FaultsAreTheModelFaults_transport :
    Inv (sending 200 [313]) ∧ step (sending 200 [313]) = .fault .transportOverrun
    ∧ nextTurn (sending 200 [313]) = .agent .framer ∧ (sending 200 [313]).framer.phase = 6#4
    ∧ Params.reference.pktLen - (sending 200 [313]).framer.txOff < txAnswer (sending 200 [313]) :=
  ⟨inv_sending (by decide) _, fault_of_faults (by decide +kernel), by decide +kernel⟩

theorem witness_FaultsAreTheModelFaults_measurement :
    nextTurn (answering [.answer none, .outOfContract] [] (inPhase 2#4 base)) = .agent .framer
    ∧ (answering [.answer none, .outOfContract] [] (inPhase 2#4 base)).framer.phase = 2#4
    ∧ measAnswer (answering [.answer none, .outOfContract] [] (inPhase 2#4 base)) 1 = .outOfContract :=
  ⟨rfl, rfl, rfl⟩

/-- Every phase code's framer step goes on, TX_WRITE with an answer of 512 and of 0. -/
theorem witness_PhaseTransitions_framer :
    ∀ p : BitVec 4, p ∈ [0#4, 1#4, 3#4, 5#4, 6#4, 7#4, 8#4, 9#4] →
      nextTurn (answering [] [512] (inPhase p base)) = .agent .framer
      ∧ ∃ t, step (answering [] [512] (inPhase p base)) = .next t := by
  intro p hp
  refine ⟨rfl, ?_⟩
  have h : ∀ p ∈ [0#4, 1#4, 3#4, 5#4, 6#4, 7#4, 8#4, 9#4],
      after (step (answering [] [512] (inPhase p base))) (fun _ => true) = true := by decide +kernel
  exact (next_of_after (h p hp)).imp fun t ht => ht.1

theorem witness_PhaseTransitions_other :
    (∃ t, step (inPhase 4#4 base) = .next t)
    ∧ (∃ t, step (answering (List.replicate 5 (.answer none)) [] (inPhase 2#4 base)) = .next t)
    ∧ (∃ t, step (answering [] [0] (inPhase 6#4 base)) = .next t
        ∧ txAnswer (answering [] [0] (inPhase 6#4 base)) = 0)
    ∧ (∃ t, step (turned (.agent (.control 0x00000101#32)) base) = .next t
        ∧ nextTurn (turned (.agent (.control 0x00000101#32)) base) ≠ .agent .framer)
    ∧ (∃ t, step (turned (.internal 0x00000030#32 []) base) = .next t) :=
  ⟨⟨_, rfl⟩,
    (next_of_after (p := fun _ => true) (by decide +kernel)).imp fun _ h => h.1,
    (next_of_after (p := fun _ => true) (by decide +kernel)).imp fun _ h => ⟨h.1, rfl⟩,
    (next_of_after (p := fun _ => true) (by decide +kernel)).imp fun _ h => ⟨h.1, by decide⟩,
    (next_of_after (p := fun _ => true) (by decide +kernel)).imp fun _ h => h.1⟩

theorem witness_EventsLeaveByTheirPorts :
    ∃ t, step (turned (.agent (.capture 0x00000311#32)) base) = .next t
      ∧ (t.out == [.captureStop, .captureRearm]) = true :=
  next_of_after (by decide +kernel)

/-- TELEM with failed channels; a full ring with 488 bytes put on it and as many captured; a ring and a capture buffer;
a zero answer at the threshold. -/
theorem witness_ErrorEventsLeaveTheirTrace :
    (4 < 5 ∧ measAnswer (answering (List.replicate 5 (.answer none)) [] base) 4 = .answer none
      ∧ ∃ t, exec .phaseTelem (answering (List.replicate 5 (.answer none)) [] base) = .next t)
    ∧ (List.replicate 488 1#8).length ≤ (ringed 3 0).params.payloadMax
    ∧ (488#16 : Half).toNat ≤ (ringed 3 0).params.payloadMax
    ∧ ((ringed 3 0).ring.w + 1) % (ringed 3 0).ring.nslots = (ringed 3 0).ring.r
    ∧ ringOk Params.reference base.ring ∧ capOk Params.reference base.cap ∧ txAnswer (sending 0 [0]) = 0 :=
  ⟨⟨by decide, rfl, (next_of_after (p := fun _ => true) (by decide +kernel)).imp fun _ h => h.1⟩, by decide +kernel⟩

theorem witness_FramerOwnsItsState :
    issuer (.ctlSetLine .a) ≠ .framer ∧ Instr.ctlSetLine .a ≠ .ctlStart true ∧ Instr.ctlSetLine .a ≠ .ctlReset
    ∧ (∃ t, exec (.ctlSetLine .a) base = .next t)
    ∧ issuer (.capByte 1#8) ≠ .framer ∧ issuer (.capByte 1#8) ≠ .host ∧ ∃ t, exec (.capByte 1#8) base = .next t :=
  ⟨by decide, by decide, by decide, ⟨_, rfl⟩, by decide, by decide,
    (next_of_after (p := fun _ => true) (by decide +kernel)).imp fun _ h => h.1⟩

theorem witness_ConfigurationWriters :
    (issuer .phaseClear ≠ .host ∧ Instr.phaseClear ≠ .phaseTxWrite ∧ ∃ t, exec .phaseClear base = .next t)
    ∧ (∃ t, exec .phaseTxWrite (answering [] [0] { base with framer := { base.framer with stall := 100#32 } }) = .next t
      ∧ (t.framer.stall == 101#32) = true) :=
  ⟨⟨by decide, by decide, ⟨_, rfl⟩⟩, next_of_after (by decide +kernel)⟩

theorem witness_RingBufferCrcWriters :
    ∃ t, exec (.ctlSetIdle 5#24) base = .next t ∧ (t.cfg.idleUs == 5#24) = true := next_of_after (by decide +kernel)

theorem witness_ProducerPreemptsWithoutTrace :
    nextTurn (turned (.agent (.capture 0x00000311#32)) { base with framer := { base.framer with wake := true } })
      = .agent (.capture 0x00000311#32)
    ∧ ∃ t, step (turned (.agent (.capture 0x00000311#32)) { base with framer := { base.framer with wake := true } }) = .next t
      ∧ (t.framer.wake && t.ring.w == 1) = true :=
  ⟨rfl, next_of_after (by decide +kernel)⟩

/-- The first rejected operand of each command that has reserved bits (StartRestartsNumberingStopOnlyClearsRun,
ResetCommandEmptiesRing, SettersWriteOneField, SetRoleForwardsOrRejects, ReadAnswersRegisterMap); the turn is that of
witness_ControlPortHandlesEveryWord. -/
theorem witness_rejectsOperandFrom :
    (opcodeNat 0x00000201#32 = 1 ∧ 2 ≤ operandNat 0x00000201#32)
    ∧ (opcodeNat 0x00000102#32 = 2 ∧ 1 ≤ operandNat 0x00000102#32)
    ∧ (opcodeNat 0x00000403#32 = 3 ∧ 4 ≤ operandNat 0x00000403#32)
    ∧ (opcodeNat 0x00000804#32 = 4 ∧ 8 ≤ operandNat 0x00000804#32)
    ∧ (opcodeNat 0x00000205#32 = 5 ∧ 2 ≤ operandNat 0x00000205#32)
    ∧ (opcodeNat 0x00000206#32 = 6 ∧ 2 ≤ operandNat 0x00000206#32)
    ∧ (opcodeNat 0x00010008#32 = 8 ∧ 256 ≤ operandNat 0x00010008#32) := by decide

/-- The first ignored operand of each capture operation (CapByteAppendsOrDiscards, RxCompleteEnqueuesAndWakes,
RxErrorEnqueuesPartial); the turn is that of witness_CapturePortIgnoresOtherWords. -/
theorem witness_ignoresReservedBits :
    (opcodeNat 0x00010010#32 = 0x10 ∧ 256 ≤ operandNat 0x00010010#32)
    ∧ (opcodeNat 0x00010011#32 = 0x11 ∧ 256 ≤ operandNat 0x00010011#32)
    ∧ (opcodeNat 0x00010012#32 = 0x12 ∧ 256 ≤ operandNat 0x00010012#32) := by decide

theorem witness_SinkWithPullCalledDirectlyIsRejected : 1#2 ≠ 0#2 ∧ 3#2 ≠ 0#2 := by decide

theorem witness_SetRoleForwardsOrRejects :
    (Role.source = .source ∨ 3#2 = 0#2) ∧ (Role.sink = .source ∨ 0#2 = 0#2)
    ∧ opcodeNat 0x00000204#32 = 4 ∧ operandNat 0x00000204#32 % 2 = 0 ∧ operandNat 0x00000204#32 / 2 % 4 ≠ 0 := by decide

/-- An empty and a full ring, the widest counts that 32 bits hold, and the first and last index of no register. -/
theorem witness_ReadAnswersRegisterMap :
    ringOk Params.reference (ringed 0 1).ring ∧ ringOk Params.reference (ringed 3 0).ring
    ∧ (ringed 3 0).ring.w - (ringed 3 0).ring.r < 2 ^ 32
    ∧ ({ base.ring with w := 2 ^ 32 - 1, r := 2 ^ 32 - 1 } : Ring).w < 2 ^ 32
    ∧ ({ base.ring with w := 2 ^ 32 - 1, r := 2 ^ 32 - 1 } : Ring).r < 2 ^ 32
    ∧ ({ base.framer with cyc := 2 ^ 32 - 1, txOff := 2 ^ 32 - 1 } : Framer).cyc < 2 ^ 32
    ∧ ({ base.framer with cyc := 2 ^ 32 - 1, txOff := 2 ^ 32 - 1 } : Framer).txOff < 2 ^ 32
    ∧ (0x12#8).toNat < 0x13 ∧ 0x13 ≤ (0x13#8).toNat ∧ 0x13 ≤ (0xFF#8).toNat := by
  decide +kernel

theorem witness_CrcResultReadsWithoutWriting : ({ base with crc := 0x340BC6D9#32 } : State).crc = 0x340BC6D9#32 := rfl

theorem witness_CrcDetectsOneChangedByte : (0#8 : Byte) ≠ 1#8 := by decide

theorem witness_PutWritesSlotAndOverwritesOldest :
    (ringOk Params.reference (ringed 3 0).ring ∧ (List.replicate 488 1#8).length ≤ Params.reference.payloadMax
      ∧ ((ringed 3 0).ring.w + 1) % (ringed 3 0).ring.nslots = (ringed 3 0).ring.r)
    ∧ (ringOk Params.reference (ringed 2 0).ring ∧ ((ringed 2 0).ring.w + 1) % (ringed 2 0).ring.nslots ≠ (ringed 2 0).ring.r)
    ∧ Params.reference.payloadMax < (List.replicate 489 1#8).length := by decide +kernel

/-- The parameters of the states of the witnesses that follow meet the constraints. -/
theorem witness_parameters_ok : (ringed 3 0).params.ok ∧ (ringed 2 2).params.ok ∧ base.params.ok ∧ (sending 200 []).params.ok :=
  ⟨reference_ok, reference_ok, reference_ok, reference_ok⟩

theorem witness_PutAppendsToQueue :
    (ringOk Params.reference (ringed 3 0).ring ∧ cap0.fits Params.reference = true ∧ (unread (ringed 3 0).ring).length = capacity (ringed 3 0).ring)
    ∧ (ringOk Params.reference base.ring ∧ unread base.ring = []) := by decide +kernel

theorem witness_TakeRemovesOldest :
    (ringOk Params.reference (ringed 1 0).ring ∧ unread (ringed 1 0).ring = [cap0]) ∧ (ringed 2 2).ring.w = (ringed 2 2).ring.r := by
  decide +kernel

theorem witness_RingIsFifoWithoutOverflow :
    ringOk Params.reference (ringed 2 2).ring ∧ (ringed 2 2).ring.w = (ringed 2 2).ring.r
    ∧ (∀ c ∈ [cap0, cap0, cap0], c.fits Params.reference = true) ∧ [cap0, cap0, cap0].length ≤ capacity (ringed 2 2).ring := by
  decide +kernel

theorem witness_OverflowDropsExactlyTheOldest :
    ringOk Params.reference (ringed 2 2).ring ∧ (ringed 2 2).ring.w = (ringed 2 2).ring.r
    ∧ (∀ c ∈ [cap0, cap0, cap0, cap0], c.fits Params.reference = true)
    ∧ capacity (ringed 2 2).ring < [cap0, cap0, cap0, cap0].length := by decide +kernel

/-- Base states that differ in a data byte of the empty slot 0, about to take it by a put, and about to fault. -/
theorem witness_UnreadSlotBytesAreInvisible (t : Turn) :
    Inv (turned t base)
    ∧ Inv { turned t base with ring := { base.ring with
        slots := { Slot.empty with data := [(0, 7#8)] } :: List.replicate 3 Slot.empty } }
    ∧ sameButUnreadBytes (turned t base)
        { turned t base with ring := { base.ring with
          slots := { Slot.empty with data := [(0, 7#8)] } :: List.replicate 3 Slot.empty } } := by
  refine ⟨inv_base t, ?_, rfl, ?_⟩
  · have h := inv_base t
    exact { params := h.params, ring := (by decide +kernel :
              ringOk Params.reference { base.ring with slots := { Slot.empty with data := [(0, 7#8)] } :: List.replicate 3 Slot.empty })
            cap := h.cap, framer := h.framer, pkt := h.pkt, isSealed := h.isSealed, emptied := h.emptied
            role := h.role, code := h.code }
  · refine .cons ⟨rfl, rfl, rfl, rfl, fun j hj => absurd hj (Nat.not_lt_zero j)⟩ ?_
    exact .cons ⟨rfl, rfl, rfl, rfl, fun _ _ => rfl⟩
      (.cons ⟨rfl, rfl, rfl, rfl, fun _ _ => rfl⟩ (.cons ⟨rfl, rfl, rfl, rfl, fun _ _ => rfl⟩ .nil))

theorem witness_UnreadSlotBytesAreInvisible_steps :
    (∃ t, step (turned (.internal 0x00010020#32 [0x11#8]) base) = .next t)
    ∧ step (turned (.internal 0x00000040#32 []) base) = .fault .badInternalOp :=
  ⟨(next_of_after (p := fun _ => true) (by decide +kernel)).imp fun _ h => h.1, fault_of_faults (by decide +kernel)⟩

theorem witness_CapByteAppendsOrDiscards :
    (capOk Params.reference { bytes := [], len := 487#16 } ∧ (487#16 : Half).toNat < Params.reference.payloadMax)
    ∧ Params.reference.payloadMax ≤ (488#16 : Half).toNat := by decide +kernel

/-- For RxCompleteEnqueuesAndWakes and RxErrorEnqueuesPartial: a full ring, and one that is not. -/
theorem witness_RxEnqueues :
    (ringOk Params.reference (ringed 3 0).ring ∧ capOk Params.reference (ringed 3 0).cap
      ∧ (unread (ringed 3 0).ring).length = capacity (ringed 3 0).ring)
    ∧ (ringOk Params.reference (ringed 2 0).ring ∧ capOk Params.reference (ringed 2 0).cap
      ∧ (unread (ringed 2 0).ring).length ≠ capacity (ringed 2 0).ring) := by decide +kernel

theorem witness_StoppedHoldsUntilRun :
    ({ base with cfg := { base.cfg with run := true } } : State).cfg.run = true ∧ base.cfg.run = false := ⟨rfl, rfl⟩

theorem witness_CycleStartNumbersTheCycle :
    (sending 0 []).pkt.wf = true ∧ (sending 0 []).cfg.run = true ∧ base.cfg.run = false := by decide +kernel

/-- Answers at the edges of the window: both channels just inside, and both just outside. -/
theorem witness_TelemRefreshesAndDetectsLine :
    (∀ (a b : Half) (i : Nat), i < 5 →
      measAnswer (answering [.answer (some a), .answer (some b), .answer none, .answer none, .answer none] [] base) i
        = .answer ([some a, some b, none, none, none].getD i none))
    ∧ (500 < (501#16 : Half).toInt ∧ (1999#16 : Half).toInt < 2000)
    ∧ ¬ (500 < (500#16 : Half).toInt ∧ (500#16 : Half).toInt < 2000)
    ∧ ¬ (500 < (2000#16 : Half).toInt ∧ (2000#16 : Half).toInt < 2000) := by
  refine ⟨fun a b i hi => ?_, by decide⟩
  match i, hi with
  | 0, _ | 1, _ | 2, _ | 3, _ | 4, _ => rfl

/-- A take cycle at the last take index with a capture and with an empty ring, and the first index that does not
take. -/
theorem witness_AssembleTakesAtMostOneCapture :
    (ringOk Params.reference (ringed 1 0).ring ∧ (ringed 1 0).pkt.wf = true ∧ 7 < Params.reference.takeCycles
      ∧ unread (ringed 1 0).ring = [cap0])
    ∧ ((ringed 2 2).pkt.wf = true ∧ (ringed 2 2).ring.w = (ringed 2 2).ring.r) ∧ Params.reference.takeCycles ≤ 8 := by
  decide +kernel

/-- For SealWritesTrailer and ClearEmptiesPayload. -/
theorem witness_SealWritesTrailer_ClearEmptiesPayload : zeroPacket.wf = true ∧ base.pkt.wf = true := by decide +kernel

/-- A zero length with and without suppression, and the least and a two-byte nonzero length. -/
theorem witness_TxDecideSendsOrSuppresses :
    ((readByte [] 16).toNat + 256 * (readByte [] 17).toNat = 0 ∧ base.cfg.suppress = false)
    ∧ (readByte [(16, 1#8)] 16).toNat + 256 * (readByte [(16, 1#8)] 17).toNat ≠ 0
    ∧ (readByte [(17, 1#8)] 16).toNat + 256 * (readByte [(17, 1#8)] 17).toNat ≠ 0 := by decide +kernel

theorem witness_FreeTransportAnswerIsInRange : (sending 200 []).env.txIn = [] := rfl

/-- Answers 1, all that was offered, one more than that, and 0 with auto-stop on. -/
theorem witness_TxWriteAcceptsStallsOrAborts :
    (0 < txAnswer (sending 200 [1]) ∧ txAnswer (sending 200 [1]) ≤ Params.reference.pktLen - (sending 200 [1]).framer.txOff)
    ∧ (0 < txAnswer (sending 200 [312])
      ∧ txAnswer (sending 200 [312]) ≤ Params.reference.pktLen - (sending 200 [312]).framer.txOff)
    ∧ Params.reference.pktLen - (sending 200 [313]).framer.txOff < txAnswer (sending 200 [313])
    ∧ txAnswer (sending 200 [0]) = 0 ∧ (sending 200 [0]).cfg.autostop = true := by decide +kernel

theorem witness_BackpressureAutoStops :
    ∃ s : State, s.params.ok ∧ s.framer.phase = 6#4 ∧ s.framer.stall = 0#32 ∧ s.cfg.autostop = true
      ∧ s.env.turns = List.replicate (2 * s.params.stallMax + 2) (.agent .framer) ++ []
      ∧ s.env.txIn = List.replicate (s.params.stallMax + 1) 0 ++ [] :=
  ⟨{ sending 200 [] with env := { base.env with
      turns := List.replicate (2 * Params.reference.stallMax + 2) (.agent .framer) ++ []
      txIn := List.replicate (Params.reference.stallMax + 1) 0 ++ [] } }, reference_ok, rfl, rfl, rfl, rfl, rfl⟩

theorem witness_StallIsUnboundedWithoutAutoStop :
    ∃ s : State, s.framer.phase = 6#4 ∧ s.cfg.autostop = false
      ∧ s.env.turns = List.replicate (2 * 3) (.agent .framer) ++ [] ∧ s.env.txIn = List.replicate 3 0 ++ [] :=
  ⟨{ sending 200 [] with
      cfg := { base.cfg with autostop := false }
      env := { base.env with turns := List.replicate 6 (.agent .framer), txIn := [0, 0, 0] } },
    rfl, rfl, rfl, rfl⟩

/-- V67's answers. -/
theorem witness_ChunkedWritesDeliverThePacketWhole :
    [0, 100, 0, 0, 412].sum = Params.reference.pktLen ∧ [0, 100, 0, 0, 412].dropLast.sum < Params.reference.pktLen
    ∧ List.count 0 [0, 100, 0, 0, 412] ≤ Params.reference.stallMax
    ∧ ∃ s : State, s.framer.phase = 6#4 ∧ s.framer.txOff = 0 ∧ s.framer.stall = 0#32
      ∧ s.env.turns = List.replicate 8 (.agent .framer) ++ [] ∧ s.env.txIn = [0, 100, 0, 0, 412] ++ [] :=
  ⟨by decide, by decide, by decide,
    { sending 0 [0, 100, 0, 0, 412] with env := { base.env with
        turns := List.replicate 8 (.agent .framer), txIn := [0, 100, 0, 0, 412] } }, rfl, rfl, rfl, rfl, rfl⟩

theorem witness_TransmittedBytesAreOfASealedPacket :
    Inv (sending 508 [2]) ∧ ∃ t, step (sending 508 [2]) = .next t
      ∧ (t.out == (sending 508 [2]).out ++ [.txBytes [0x54#8, 0x6D#8]]) = true :=
  ⟨inv_sending (by decide) _, next_of_after (by decide +kernel)⟩

/-- A cycle at index 0 with its measurements, and one at the last take index. -/
theorem witness_CycleSendsTheOldestCapture (cyc : Nat) (hc : cyc = 0 ∨ cyc = 7) :
    ∃ s : State, Inv s ∧ s.framer.phase = 1#4 ∧ s.cfg.run = true ∧ s.framer.cyc = cyc ∧ s.framer.cyc < s.params.takeCycles
      ∧ unread s.ring = [cap0] ∧ cap0.len ≠ 0#16 ∧ (∀ i, i < 5 → ∃ v, measAnswer s i = .answer v)
      ∧ s.env.turns = List.replicate (if s.framer.cyc = 0 then 6 else 5) (.agent .framer) ++ []
      ∧ s.env.txIn = s.params.pktLen :: [] := by
  refine ⟨{ ringed 1 0 with
      framer := { base.framer with phase := 1#4, cyc := cyc }
      cfg := { base.cfg with run := true }
      env := { base.env with
        turns := List.replicate (if cyc = 0 then 6 else 5) (.agent .framer), txIn := [512]
        measIn := List.replicate 5 (.answer none) } }, ?_, rfl, rfl, rfl, ?_,
      (by decide +kernel : unread (ringAt 1 0) = [cap0]), (by decide), ?_,
      (List.append_nil _).symm, rfl⟩
  · refine inv_of_checks _
      ⟨rfl, (by decide +kernel : ringOk Params.reference (ringAt 1 0)), (by decide +kernel : capOk Params.reference base.cap), ?_, rfl, rfl, rfl, rfl,
        (by decide +kernel : payloadLen [] = 0), fun _ _ _ => rfl, fun _ => rfl, (by decide : (0 : Nat) ≤ 3)⟩ (fun h => Bool.noConfusion (h : false = true))
    rcases hc with rfl | rfl <;> decide +kernel
  · rcases hc with rfl | rfl <;> decide
  · intro i hi
    match i, hi with
    | 0, _ | 1, _ | 2, _ | 3, _ | 4, _ => exact ⟨none, rfl⟩

end Sys2Proof.Tests
end

/-! ## What a step can do: one rule for every property of the next state -/

section
namespace Sys2Proof.Machine

/-- A property of the next state, where there is one: a fault or a refusal answers none. -/
def OnNext (P : State → Prop) (r : Result) : Prop := ∀ t, r = .next t → P t

@[simp] theorem onNext_next {P : State → Prop} {t : State} : OnNext P (.next t) ↔ P t :=
  ⟨fun h => h t rfl, fun h _ e => by cases e; exact h⟩

@[simp] theorem onNext_fault (P : State → Prop) (f : Fault) : OnNext P (.fault f) := fun _ e => nomatch e

@[simp] theorem onNext_raise (P : State → Prop) (f : Fault) : OnNext P (raise f) := onNext_fault P f

/-- An instruction assembled from the operand fields of a word is no phase. -/
theorem encode_operands_ne_phase (op : Op) (w : Word) (d : List Byte) (c : BitVec 4) :
    encode (operands op w d) ≠ .phase c := by
  cases op <;> exact nofun

/-- The decoder of words answers an instruction of the opcode map with the operand fields of the word. -/
theorem decodeAt_ok {p : Port} {w : Word} {d : List Byte} {i : Instr} (h : decodeAt p w d = .ok i) :
    ∃ op, i = operands op w d := by
  unfold decodeAt at h
  split at h
  · cases h
  · next row _ =>
    split at h
    · cases h
    · split at h
      · cases h
      · split at h
        · cases h
        · cases h; exact ⟨row.op, rfl⟩

/-- A word decodes to no phase. -/
theorem encode_ne_phase_of_decodeAt {p : Port} {w : Word} {d : List Byte} {i : Instr} (h : decodeAt p w d = .ok i)
    (c : BitVec 4) : encode i ≠ .phase c := by
  obtain ⟨op, rfl⟩ := decodeAt_ok h
  exact encode_operands_ne_phase op w d c

/-- The phase that a code names has that code (30_encoding R76). -/
theorem encode_of_decodePhase {c : BitVec 4} {i : Instr} (h : decodePhase c = some i) : encode i = .phase c := by
  have hall : ∀ c : BitVec 4, ∀ i ∈ decodePhase c, encode i = .phase c := by decide
  exact hall c i h

/-- The phase register holds the code of the instruction, if the instruction is a phase: so it is when a step runs one,
since only the framer's turn does and it runs the phase of its register. -/
def PhaseIs (s : State) (i : Instr) : Prop := ∀ c, encode i = .phase c → s.framer.phase = c

theorem phaseIs_of_decodeAt {p : Port} {w : Word} {d : List Byte} {i : Instr} (h : decodeAt p w d = .ok i)
    (s : State) : PhaseIs s i := fun c hc => absurd hc (encode_ne_phase_of_decodeAt h c)

theorem phaseIs_of_decodePhase {s : State} {i : Instr} (h : decodePhase s.framer.phase = some i) : PhaseIs s i := by
  intro c hc
  rw [encode_of_decodePhase h] at hc
  exact Encoded.phase.inj hc

/-- The rule of the step: what the instructions, the rejected control words and the ignored capture words each bring
about holds of every next state. -/
theorem step_onNext {P : State → Prop} {s : State}
    (hexec : ∀ i, PhaseIs (afterTurn s) i → OnNext P (exec i (afterTurn s)))
    (hreject : ∀ e, P (reject (rejectCode e) (afterTurn s))) (hignore : P (afterTurn s)) : OnNext P (step s) := by
  rw [step_eq]
  split
  · split
    · next i hi => exact hexec i (phaseIs_of_decodeAt hi _)
    · next e _ => exact onNext_next.2 (hreject e)
  · split
    · next i hi => exact hexec i (phaseIs_of_decodeAt hi _)
    · exact onNext_next.2 hignore
  · split
    · next i hi => exact hexec i (phaseIs_of_decodePhase (by rwa [afterTurn_framer]))
    · exact onNext_fault P _
  · split
    · next i hi => exact hexec i (phaseIs_of_decodeAt hi _)
    · exact onNext_fault P _

/-- A producer event is a put that fits, or the fault of one that does not (42_producer R101). -/
theorem producerEvent_onNext {P : State → Prop} {ty : BitVec 8} {part signal : Bool} {s : State}
    (h : s.cap.len.toNat ≤ s.params.payloadMax →
      P (signalWake signal (emit .captureRearm (clearCapBuf
          { emit .captureStop s with
            ring := ringPutOp s.telem.active ty part (memRead s.cap.bytes 0 s.cap.len.toNat) s.ring })))) :
    OnNext P (producerEvent ty part signal s) := by
  rw [producerEvent_eq]
  split
  · exact onNext_fault P _
  · next hle => exact onNext_next.2 (h (Nat.le_of_not_lt hle))

/-- A put is the fault of one that does not fit, or the ring's change (41_ring R88). -/
theorem putCapture_onNext {P : State → Prop} {line : Line} {ty : BitVec 8} {part : Bool} {data : List Byte}
    {s : State} (h : data.length ≤ s.params.payloadMax → P { s with ring := ringPutOp line ty part data s.ring }) :
    OnNext P (putCapture line ty part data s) := by
  rw [putCapture_eq]
  split
  · exact onNext_fault P _
  · next hle => exact onNext_next.2 (h (Nat.le_of_not_lt hle))

/-- A transport write within the contract stalls or is accepted (43_framer R126). -/
theorem execPhaseTxWrite_onNext {P : State → Prop} {s : State} (hstall : P (txStall (drawTx s).2))
    (haccept : txAnswer s ≤ offered s → P (txAccept (txAnswer s) (drawTx s).2)) :
    OnNext P (execPhaseTxWrite s) := by
  unfold execPhaseTxWrite
  split
  · exact onNext_raise P _
  · next hover =>
    have hle : txAnswer s ≤ offered s := Nat.le_of_not_lt fun hlt => hover ((txOverrun_iff s).2 hlt)
    rw [onNext_next]
    split
    · exact hstall
    · exact haccept hle

/-- TELEM is the fault of an answer out of contract, or the telemetry update (43_framer R122). -/
theorem execPhaseTelem_onNext {P : State → Prop} {s : State}
    (h : ∀ ans, P (setPhase phAssemble
      { (drawChannels s).2 with telem := refreshTelemetry s.params ans s.cfg.lineSel s.telem })) :
    OnNext P (execPhaseTelem s) := by
  unfold execPhaseTelem
  split
  · exact onNext_raise P _
  · next ans _ => exact onNext_next.2 (h ans)

/-- CTL_READ completes with a register's value, or with BAD_REG_INDEX (44_control R158). -/
theorem execCtlRead_onNext {P : State → Prop} {idx : BitVec 8} {s : State} (hok : ∀ v, P (complete codeOk v s))
    (hbad : P (complete codeBadRegIndex 0#32 s)) : OnNext P (execCtlRead idx s) := by
  unfold execCtlRead
  split
  · next v _ => exact onNext_next.2 (hok v)
  · exact onNext_next.2 hbad

end Sys2Proof.Machine
end

/-! ## The step runs the decoded instruction and keeps the parameters -/

section
namespace Sys2Proof.Machine

/-- Taking a turn changes the list of turns or the count of free ones, and nothing else. -/
theorem afterTurn_frame (s : State) :
    afterTurn s =
      { s with env := { s.env with turns := s.env.turns.tail, turnCount := (afterTurn s).env.turnCount } } := by
  unfold afterTurn
  split
  · next h => simp [h]
  · next h => simp [h]

/-- Settles O13: each kind of turn is one branch of `step_eq`. -/
theorem stepRunsDecoded : Obligations.StepRunsDecoded := by
  refine ⟨fun s w i hturn hdec => ?_, fun s w i hturn hdec => ?_, fun s w d i hturn hdec => ?_,
    fun s i hturn hdec => ?_, afterTurn_frame⟩ <;> simp only [step_eq, hturn, hdec]

/-- Two states with the same parameters and as many ring slots. -/
def SameShape (s t : State) : Prop := t.params = s.params ∧ t.ring.nslots = s.ring.nslots

/-- No instruction changes a parameter or the number of slots (00_scope R7, R11). -/
theorem exec_sameShape (i : Instr) (s : State) : OnNext (SameShape s) (exec i s) := by
  cases i with
  | ctlStart run => cases run <;> exact onNext_next.2 ⟨rfl, rfl⟩
  | ctlReset => exact onNext_next.2 ⟨rfl, ringClear_nslots s.ring⟩
  | ctlSetLine sel => exact onNext_next.2 ⟨rfl, rfl⟩
  | ctlSetRole role pull =>
    simp only [exec, execCtlSetRole]
    split <;> exact onNext_next.2 ⟨rfl, rfl⟩
  | ctlSetOutmode onCapture => exact onNext_next.2 ⟨rfl, rfl⟩
  | ctlSetAutostop on => exact onNext_next.2 ⟨rfl, rfl⟩
  | ctlSetIdle us => exact onNext_next.2 ⟨rfl, rfl⟩
  | ctlRead idx => exact execCtlRead_onNext (fun _ => ⟨rfl, rfl⟩) ⟨rfl, rfl⟩
  | capByte b =>
    simp only [exec, execCapByte]
    split <;> exact onNext_next.2 ⟨rfl, rfl⟩
  | evRxComplete ty => exact producerEvent_onNext fun _ => ⟨rfl, ringPutOp_nslots ..⟩
  | evRxError ty => exact producerEvent_onNext fun _ => ⟨rfl, ringPutOp_nslots ..⟩
  | ringPut line ty part data => exact putCapture_onNext fun _ => ⟨rfl, ringPutOp_nslots ..⟩
  | ringTake => exact onNext_next.2 ⟨rfl, ringTakeOp_nslots s.ring⟩
  | crcInit => exact onNext_next.2 ⟨rfl, rfl⟩
  | crcHash data => exact onNext_next.2 ⟨rfl, rfl⟩
  | crcResult => exact onNext_next.2 ⟨rfl, rfl⟩
  | phaseStopped =>
    simp only [exec, execPhaseStopped]
    split <;> exact onNext_next.2 ⟨rfl, rfl⟩
  | phaseCycleStart =>
    simp only [exec, execPhaseCycleStart]
    split <;> exact onNext_next.2 ⟨rfl, rfl⟩
  | phaseTelem => exact execPhaseTelem_onNext fun _ => ⟨drawChannels_params s, by simp⟩
  | phaseAssemble =>
    simp only [exec, execPhaseAssemble]
    split
    · exact onNext_next.2
        ⟨assembleTake_params s, (congrArg Ring.nslots (assembleTake_ring s)).trans (ringTakeOp_nslots s.ring)⟩
    · exact onNext_next.2 ⟨rfl, rfl⟩
  | phaseSeal => exact onNext_next.2 ⟨rfl, rfl⟩
  | phaseTxDecide =>
    simp only [exec, execPhaseTxDecide]
    split <;> exact onNext_next.2 ⟨rfl, rfl⟩
  | phaseTxWrite => exact execPhaseTxWrite_onNext ⟨by simp, by simp⟩ fun _ => ⟨by simp, by simp⟩
  | phaseTxSleep => exact onNext_next.2 ⟨rfl, rfl⟩
  | phaseClear => exact onNext_next.2 ⟨rfl, rfl⟩
  | phaseIdleSleep => exact onNext_next.2 ⟨rfl, rfl⟩

/-- Settles O5: no instruction changes them, and taking a turn or rejecting a word does not either. -/
theorem stepKeepsParameters : Obligations.StepKeepsParameters := by
  intro s
  have hturn : SameShape s (afterTurn s) := ⟨by simp, by simp⟩
  refine step_onNext (fun i _ t ht => ?_) (fun _ => hturn) hturn
  obtain ⟨hparams, hslots⟩ := exec_sameShape i (afterTurn s) t ht
  exact ⟨hparams.trans hturn.1, hslots.trans hturn.2⟩

end Sys2Proof.Machine
end

/-! ## Power-on reset -/

section
namespace Sys2Proof.Machine

/-- Every slot reads as the empty one at power-on (10_state R40). -/
theorem getSlot_powerOn (p : Params) (n : Nat) (idle : BitVec 24) (i : Nat) :
    getSlot (State.powerOn p n idle).ring i = Slot.empty := by
  simp only [getSlot, State.powerOn, List.getElem?_replicate]
  split <;> rfl

theorem powerOn_nslots (p : Params) (n : Nat) (idle : BitVec 24) : (State.powerOn p n idle).ring.nslots = n :=
  List.length_replicate

/-- Settles O1: the slots are `getSlot_powerOn`, every other field is as written in `State.powerOn`. -/
theorem powerOnValues : Obligations.PowerOnValues := by
  refine ⟨fun p n idle => ?_, rfl, two_le_nslots⟩
  have hslot : ∀ i, i < n →
      (getSlot (State.powerOn p n idle).ring i).len = 0#16 ∧ (getSlot (State.powerOn p n idle).ring i).line = .a
      ∧ (getSlot (State.powerOn p n idle).ring i).ty = 0#8
      ∧ (getSlot (State.powerOn p n idle).ring i).part = false := by
    intro i _
    rw [getSlot_powerOn]
    exact ⟨rfl, rfl, rfl, rfl⟩
  exact ⟨rfl, rfl, rfl, powerOn_nslots p n idle, hslot, rfl, rfl, fun _ => rfl, rfl, rfl, rfl, fun _ => rfl, rfl, rfl,
    rfl, rfl⟩

/-- Settles O2: State.reset takes the reference values, which meet the constraints (`reference_ok`); the last two
clauses are the definitions of 00_scope R7 with HDR_LEN and TRAILER_LEN as numbers. -/
theorem referenceParametersMeetTheConstraints : Obligations.ReferenceParametersMeetTheConstraints := by
  have hslots : 2 ≤ State.reset.ring.nslots := by
    rw [State.reset, powerOn_nslots]
    exact two_le_nslots
  exact ⟨rfl, reference_ok, rfl, rfl, rfl, rfl, rfl, hslots,
    fun p => ⟨takeCycles_eq p, payloadMax_eq p, pktLen_eq p⟩, fun _ => Iff.rfl⟩

end Sys2Proof.Machine
end

/-! ## The invariant: what each component's updates keep -/

section
namespace Sys2Proof.Machine

/-! ### The ring -/

/-- A ring with one slot written and its indices in range is well-formed. -/
theorem ringOk_of_set {p : Params} {g g' : Ring} (hg : ringOk p g) {i : Nat} {v : Slot} (hv : slotOk p v)
    (hslots : g'.slots = g.slots.set i v) (hw : g'.w < g.nslots) (hr : g'.r < g.nslots) : ringOk p g' := by
  obtain ⟨htwo, -, -, hall⟩ := hg
  have hn : g'.nslots = g.nslots := by simp [Ring.nslots, hslots]
  refine ⟨hn ▸ htwo, hn ▸ hw, hn ▸ hr, fun sl hsl => ?_⟩
  rw [hslots] at hsl
  rcases List.mem_or_eq_of_mem_set hsl with hold | rfl
  · exact hall sl hold
  · exact hv

/-- A put that fits writes a well-formed slot over one (41_ring R88). -/
theorem slotOk_putSlot {p : Params} {old : Slot} (hold : slotOk p old) (line : Line) (ty : BitVec 8)
    (part : Bool) {data : List Byte} (hd : data.length ≤ p.payloadMax) :
    slotOk p (putSlot old line ty part data) := by
  obtain ⟨-, hwf, hin⟩ := hold
  refine ⟨?_, wf_memWrite hwf 0 data, within_memWrite hin (by omega)⟩
  have hmod : data.length % 2 ^ 16 ≤ data.length := Nat.mod_le _ _
  simp only [putSlot, BitVec.toNat_ofNat]
  omega

/-- A put that fits keeps the ring well-formed (41_ring R88). -/
theorem ringOk_ringPutOp {p : Params} {g : Ring} (hg : ringOk p g) (line : Line) (ty : BitVec 8)
    (part : Bool) {data : List Byte} (hd : data.length ≤ p.payloadMax) :
    ringOk p (ringPutOp line ty part data g) := by
  obtain ⟨htwo, hw, hr, hall⟩ := hg
  have hpos : 0 < g.nslots := by omega
  rw [ringPutOp_eq]
  refine ringOk_of_set ⟨htwo, hw, hr, hall⟩ (slotOk_putSlot (hall _ (getSlot_mem hw)) line ty part hd) rfl
    (nextIndex_lt hpos g.w) ?_
  dsimp only
  split
  · exact nextIndex_lt hpos g.r
  · exact hr

/-- A take keeps the ring well-formed (41_ring R89). -/
theorem ringOk_ringTakeOp {p : Params} {g : Ring} (hg : ringOk p g) : ringOk p (ringTakeOp g).2 := by
  obtain ⟨htwo, hw, hr, hall⟩ := hg
  by_cases hempty : g.r = g.w
  · rw [ringTakeOp_empty hempty]
    exact ⟨htwo, hw, hr, hall⟩
  · rw [ringTakeOp_some hempty]
    obtain ⟨-, hwf, hin⟩ := hall _ (getSlot_mem hr)
    exact ringOk_of_set (v := { getSlot g g.r with len := 0#16 }) ⟨htwo, hw, hr, hall⟩
      ⟨Nat.zero_le _, hwf, hin⟩ rfl hw (nextIndex_lt (by omega) g.r)

/-- What a take hands over fits a packet's payload, and its length is the number of its bytes (41_ring R89). -/
theorem ringTakeOp_capture_fits {p : Params} {g : Ring} (hg : ringOk p g) {c : Capture}
    (hc : (ringTakeOp g).1 = some c) : c.bytes.length = c.len.toNat ∧ c.len.toNat ≤ p.payloadMax := by
  obtain ⟨-, -, hr, hall⟩ := hg
  by_cases hempty : g.r = g.w
  · rw [ringTakeOp_empty hempty] at hc
    cases hc
  · rw [ringTakeOp_some hempty] at hc
    cases hc
    exact ⟨memRead_length .., (hall _ (getSlot_mem hr)).1⟩

/-- `ring_clear()` leaves a well-formed ring (41_ring R90). -/
theorem ringOk_ringClear {p : Params} {g : Ring} (hg : ringOk p g) : ringOk p (ringClear g) := by
  obtain ⟨htwo, -, -, hall⟩ := hg
  have hn : (ringClear g).nslots = g.nslots := ringClear_nslots g
  have hpos : 0 < (ringClear g).nslots := by omega
  refine ⟨hn ▸ htwo, hpos, hpos, fun sl hsl => ?_⟩
  obtain ⟨old, hold, rfl⟩ := List.mem_map.1 hsl
  obtain ⟨-, hwf, hin⟩ := hall old hold
  exact ⟨Nat.zero_le _, hwf, hin⟩

/-! ### The capture buffer -/

/-- A byte that lands below PAYLOAD_MAX keeps the capture buffer well-formed: the count cannot wrap, since PAYLOAD_MAX
is at most 65535 (42_producer R100, 00_scope R7). -/
theorem capOk_land {p : Params} (hp : p.ok) {c : CapBuf} (hc : capOk p c) (hlt : c.len.toNat < p.payloadMax)
    (b : Byte) : capOk p { bytes := writeByte c.bytes c.len.toNat b, len := c.len + 1#16 } := by
  obtain ⟨-, hwf, hin⟩ := hc
  obtain ⟨-, -, -, -, hmax, -⟩ := hp
  refine ⟨?_, wf_writeByte hwf _ b, within_writeByte hin hlt b⟩
  simp only [BitVec.toNat_add, BitVec.toNat_ofNat]
  omega

/-- Clearing the capture buffer leaves it well-formed (42_producer R101). -/
theorem capOk_clear {p : Params} {c : CapBuf} (hc : capOk p c) (n : Nat) :
    capOk p { bytes := memZero c.bytes 0 n, len := 0#16 } := by
  obtain ⟨-, hwf, hin⟩ := hc
  exact ⟨Nat.zero_le _, wf_memZero hwf 0 n, within_memZero hin 0 n⟩

/-! ### The packet buffer -/

/-- A write that misses the length field leaves the payload length. -/
theorem payloadLen_memWrite {m : Memory} (hwf : m.wf = true) {off : Nat} {bs : List Byte}
    (hd : off + bs.length ≤ offLen ∨ offReserved ≤ off) : payloadLen (memWrite m off bs) = payloadLen m := by
  simp only [offLen, offReserved] at hd
  simp only [payloadLen, readHalf, offLen, readByte_memWrite hwf]
  rw [if_neg (by omega), if_neg (by omega)]

/-- A write of the header before the length field, or of the trailer, keeps the packet buffer well-formed. -/
theorem pktOk_memWrite {p : Params} (hp : p.ok) {m : Memory} (hm : pktOk p m) {off : Nat} {bs : List Byte}
    (hd : off + bs.length ≤ offLen ∨ p.span ≤ off ∧ off + bs.length ≤ p.pktLen) : pktOk p (memWrite m off bs) := by
  obtain ⟨hwf, hin, hres0, hres1, hlen, hzero⟩ := hm
  have hspan := span_eq_of_ok hp
  have hpkt := pktLen_eq p
  simp only [offLen] at hd
  have hpay : payloadLen (memWrite m off bs) = payloadLen m :=
    payloadLen_memWrite hwf (by simp only [offLen, offReserved]; omega)
  have hread : ∀ a, offReserved ≤ a → a < p.span → readByte (memWrite m off bs) a = readByte m a := by
    intro a hlo hhi
    simp only [offReserved] at hlo
    rw [readByte_memWrite hwf, if_neg (by omega)]
  refine ⟨wf_memWrite hwf off bs, within_memWrite hin (by omega), ?_, ?_, hpay ▸ hlen, fun a hlo hhi => ?_⟩
  · rw [hread _ (Nat.le_refl _) (by simp only [offReserved]; omega), hres0]
  · rw [hread _ (Nat.le_succ _) (by simp only [offReserved]; omega), hres1]
  · rw [hpay] at hlo
    rw [hread a (by simp only [offReserved, offPayload] at *; omega) hhi, hzero a hlo hhi]

/-- The payload field and the length field written together, as ASSEMBLE and CLEAR do (43_framer R123, R127). -/
def fillPayload (p : Params) (len : Half) (bs : List Byte) (m : Memory) : Memory :=
  memWrite (memWritePadded m offPayload p.payloadMax bs) offLen (le16 len)

theorem payloadLen_nil : payloadLen [] = 0 := by simp [payloadLen, readHalf, readByte]

theorem payloadLen_fillPayload {p : Params} {m : Memory} (hwf : m.wf = true) (len : Half) (bs : List Byte) :
    payloadLen (fillPayload p len bs m) = len.toNat :=
  congrArg BitVec.toNat (readHalf_memWrite_le16 (wf_memWritePadded hwf offPayload p.payloadMax bs) offLen len)

/-- Payload and length written together keep the packet buffer well-formed, if the length is that of the bytes. -/
theorem pktOk_fillPayload {p : Params} (hp : p.ok) {m : Memory} (hm : pktOk p m) {len : Half} {bs : List Byte}
    (hbs : bs.length = len.toNat) (hle : len.toNat ≤ p.payloadMax) : pktOk p (fillPayload p len bs m) := by
  obtain ⟨hwf, hin, hres0, hres1, -, -⟩ := hm
  have hspan := span_eq_of_ok hp
  have hpkt := pktLen_eq p
  have hwf' : (memWritePadded m offPayload p.payloadMax bs).wf = true := wf_memWritePadded hwf _ _ bs
  have hin' : (memWritePadded m offPayload p.payloadMax bs).within p.pktLen = true :=
    within_memWritePadded hin (by simp only [offPayload]; omega) (by omega)
  have hread : ∀ a, offReserved ≤ a → readByte (fillPayload p len bs m) a
      = if offPayload ≤ a ∧ a < offPayload + p.payloadMax then bs.getD (a - offPayload) 0#8 else readByte m a := by
    intro a ha
    simp only [offReserved] at ha
    rw [fillPayload, readByte_memWrite hwf', if_neg (by simp only [offLen, le16_length]; omega),
      readByte_memWritePadded hwf _ _ (by omega)]
  refine ⟨wf_memWrite hwf' _ _, within_memWrite hin' (by simp only [offLen, le16_length]; omega), ?_, ?_, ?_,
    fun a hlo hhi => ?_⟩
  · rw [hread _ (Nat.le_refl _), if_neg (fun hin => absurd hin.1 (by decide)), hres0]
  · rw [hread _ (Nat.le_succ _), if_neg (fun hin => absurd hin.1 (by decide)), hres1]
  · rwa [payloadLen_fillPayload hwf]
  · rw [payloadLen_fillPayload hwf] at hlo
    have hbeyond : bs.length ≤ a - offPayload := by omega
    simp only [offPayload] at hlo
    rw [hread a (by simp only [offReserved]; omega), if_pos (by simp only [offPayload]; omega),
      List.getD_eq_default _ _ hbeyond]

/-- The trailer that SEAL writes seals the packet: writing it changes no byte of the span (43_framer R124). -/
theorem pktSealed_memWrite_trailer {p : Params} {m : Memory} (hwf : m.wf = true) :
    pktSealed p (memWrite m p.span (le32 (crc32 (memRead m 0 p.span)))) := by
  have hspan : memRead (memWrite m p.span (le32 (crc32 (memRead m 0 p.span)))) 0 p.span = memRead m 0 p.span :=
    memRead_memWrite_disjoint hwf _ _ _ _ (.inl (by omega))
  unfold pktSealed
  rw [hspan]
  exact memRead_memWrite hwf p.span (le32 (crc32 (memRead m 0 p.span)))

/-- `init`, `hash` and `result` in a row give the CRC-32 of the bytes (40_crc R86). -/
theorem crcResultOp_of_fresh (data : List Byte) (s : State) :
    crcResultOp (crcHashOp data (crcInitOp s)) = crc32 data := rfl

/-! ### The phases -/

/-- A phase with an empty payload is a phase code, and it neither sends nor is sealed. -/
theorem phaseIsEmpty_spec {c : BitVec 4} (h : phaseIsEmpty c = true) :
    c.toNat ≤ 9 ∧ phaseIsSealed c = false ∧ c ≠ phTxWrite ∧ c ≠ phTxSleep := by
  revert c; decide

/-- A phase with a sealed packet is a phase code, and its payload need not be empty. -/
theorem phaseIsSealed_spec {c : BitVec 4} (h : phaseIsSealed c = true) : c.toNat ≤ 9 ∧ phaseIsEmpty c = false := by
  revert c; decide

/-! Around the transmission: SEAL, TX_DECIDE and CLEAR offer the transport no byte. -/

theorem seal_not_sending : ¬ (phSeal = phTxWrite ∨ phSeal = phTxSleep) := by decide
theorem txDecide_not_sending : ¬ (phTxDecide = phTxWrite ∨ phTxDecide = phTxSleep) := by decide
theorem clear_not_sending : ¬ (phClear = phTxWrite ∨ phClear = phTxSleep) := by decide

/-- CLEAR is followed by a phase with an empty payload (43_framer R127). -/
theorem phaseIsEmpty_afterClear (f : Framer) : phaseIsEmpty (afterClear f) = true := by
  unfold afterClear
  split
  · rfl
  · split <;> rfl

end Sys2Proof.Machine
end

/-! ## The invariant: what each update of the state keeps -/

section
namespace Sys2Proof.Machine

variable {s : State}

theorem Inv.cyc_lt (h : Inv s) : s.framer.cyc < s.params.k := h.framer.2.1

theorem Inv.k_pos (h : Inv s) : 0 < s.params.k := Nat.zero_lt_of_lt h.cyc_lt

theorem Inv.txOff_le (h : Inv s) : s.framer.txOff ≤ s.params.pktLen := h.framer.2.2.1

theorem Inv.txOff_lt (h : Inv s) (hsend : s.framer.phase = phTxWrite ∨ s.framer.phase = phTxSleep) :
    s.framer.txOff < s.params.pktLen := h.framer.2.2.2 hsend

theorem Inv.pkt_wf (h : Inv s) : s.pkt.wf = true := h.pkt.1

/-- The invariant does not read the CRC register, the telemetry, the events or the environment. -/
theorem inv_unread (h : Inv s) (crc : Word) (telem : Telemetry) (out : List Event) (env : Env) :
    Inv { s with crc := crc, telem := telem, out := out, env := env } :=
  ⟨h.params, h.ring, h.cap, h.framer, h.pkt, h.isSealed, h.emptied, h.role, h.code⟩

theorem inv_setRing (h : Inv s) {g : Ring} (hg : ringOk s.params g) : Inv { s with ring := g } :=
  { h with ring := hg }

theorem inv_setCap (h : Inv s) {c : CapBuf} (hc : capOk s.params c) : Inv { s with cap := c } :=
  { h with cap := hc }

theorem inv_setCfg (h : Inv s) (c : RunConfig) (hc : c.role = .sink → c.pull = 0#2) : Inv { s with cfg := c } :=
  { h with role := hc }

/-- The framer's registers in the same phase, at a cycle index in range and the same transmit offset. -/
theorem inv_setFramer_samePhase (h : Inv s) {f : Framer} (hphase : f.phase = s.framer.phase) (hcyc : f.cyc < s.params.k)
    (hoff : f.txOff = s.framer.txOff) : Inv { s with framer := f } := by
  obtain ⟨hcode, -, hle, hlt⟩ := h.framer
  refine { h with framer := ⟨?_, hcyc, ?_, ?_⟩, isSealed := ?_, emptied := ?_ }
  · rwa [hphase]
  · rwa [hoff]
  · rwa [hphase, hoff]
  · rw [hphase]; exact h.isSealed
  · rw [hphase]; exact h.emptied

/-- The framer in a phase with an empty payload, and the packet buffer, where its payload is empty. -/
theorem inv_setEmpty (h : Inv s) {f : Framer} {m : Memory} (hphase : phaseIsEmpty f.phase = true)
    (hcyc : f.cyc < s.params.k) (hoff : f.txOff ≤ s.params.pktLen) (hm : pktOk s.params m) (hlen : payloadLen m = 0) :
    Inv { s with framer := f, pkt := m } := by
  obtain ⟨hcode, hopen, hwrite, hsleep⟩ := phaseIsEmpty_spec hphase
  exact { h with
    framer := ⟨hcode, hcyc, hoff, fun hsend => (hsend.elim hwrite hsleep).elim⟩
    pkt := hm
    isSealed := fun hs => absurd hs (by simp [hopen])
    emptied := fun _ => hlen }

/-- The framer in a phase with a sealed packet, and the packet buffer, where it is sealed. -/
theorem inv_setSealed (h : Inv s) {f : Framer} {m : Memory} (hphase : phaseIsSealed f.phase = true)
    (hcyc : f.cyc < s.params.k) (hle : f.txOff ≤ s.params.pktLen)
    (hlt : f.phase = phTxWrite ∨ f.phase = phTxSleep → f.txOff < s.params.pktLen) (hm : pktOk s.params m)
    (hsealed : pktSealed s.params m) : Inv { s with framer := f, pkt := m } := by
  obtain ⟨hcode, hfull⟩ := phaseIsSealed_spec hphase
  exact { h with
    framer := ⟨hcode, hcyc, hle, hlt⟩
    pkt := hm
    isSealed := fun _ => hsealed
    emptied := fun he => absurd he (by simp [hfull]) }

/-- From one phase with an empty payload to another, with the same cycle index and transmit offset. -/
theorem inv_keepEmpty (h : Inv s) {f : Framer} (hfrom : phaseIsEmpty s.framer.phase = true)
    (hto : phaseIsEmpty f.phase = true) (hcyc : f.cyc = s.framer.cyc) (hoff : f.txOff = s.framer.txOff) :
    Inv { s with framer := f } :=
  inv_setEmpty h hto (hcyc ▸ h.cyc_lt) (hoff ▸ h.txOff_le) h.pkt (h.emptied hfrom)

/-- From one phase with a sealed packet to another, with the same cycle index. -/
theorem inv_keepSealed (h : Inv s) {f : Framer} (hfrom : phaseIsSealed s.framer.phase = true)
    (hto : phaseIsSealed f.phase = true) (hcyc : f.cyc = s.framer.cyc) (hle : f.txOff ≤ s.params.pktLen)
    (hlt : f.phase = phTxWrite ∨ f.phase = phTxSleep → f.txOff < s.params.pktLen) : Inv { s with framer := f } :=
  inv_setSealed h hto (hcyc ▸ h.cyc_lt) hle hlt h.pkt (h.isSealed hfrom)

/-- Phase SEAL asks nothing of the packet beyond its form. -/
theorem inv_toSeal (h : Inv s) {m : Memory} (hm : pktOk s.params m) : Inv (setPhase phSeal { s with pkt := m }) :=
  { h with
    framer := ⟨(by decide : phSeal.toNat ≤ 9), h.cyc_lt, h.txOff_le, fun hsend => absurd hsend seal_not_sending⟩
    pkt := hm
    isSealed := fun (hs : phaseIsSealed phSeal = true) => absurd hs (by decide)
    emptied := fun (he : phaseIsEmpty phSeal = true) => absurd he (by decide) }

/-! ### The named updates -/

theorem inv_emit (h : Inv s) (e : Event) : Inv (emit e s) := inv_unread h _ _ _ _

theorem inv_complete (h : Inv s) {code : BitVec 8} (hcode : code.toNat ≤ 3) (v : Word) : Inv (complete code v s) :=
  inv_emit (s := { s with errCode := code }) { h with code := hcode } _

theorem inv_completeOk (h : Inv s) : Inv (completeOk s) := inv_complete h (by decide) 0#32

/-- A rejected control word leaves a result code (60_exceptions R178). -/
theorem inv_reject (h : Inv s) (e : DecodeError) : Inv (reject (rejectCode e) s) :=
  inv_complete h (by cases e <;> decide) 0#32

theorem inv_afterTurn (h : Inv s) : Inv (afterTurn s) := by
  rw [afterTurn_frame]
  exact inv_unread h _ _ _ _

theorem inv_drawMeas (h : Inv s) : Inv (drawMeas s).2 := by
  unfold drawMeas
  split <;> exact inv_unread h _ _ _ _

theorem inv_drawChannels (h : Inv s) : Inv (drawChannels s).2 :=
  inv_drawMeas (inv_drawMeas (inv_drawMeas (inv_drawMeas (inv_drawMeas h))))

theorem inv_drawTx (h : Inv s) : Inv (drawTx s).2 := by
  unfold drawTx
  split <;> exact inv_unread h _ _ _ _

end Sys2Proof.Machine
end

/-! ## The invariant: what each instruction keeps -/

section
namespace Sys2Proof.Machine

variable {s : State}

/-! ### Control Surface -/

theorem execCtlStart_inv (h : Inv s) (run : Bool) : OnNext Inv (execCtlStart run s) := by
  have hset : ∀ b, Inv (setRun b s) := fun b => inv_setCfg h { s.cfg with run := b } h.role
  unfold execCtlStart
  split
  · have hfresh := inv_setFramer_samePhase (f := { s.framer with seq := 0#32, cyc := 0, autostopped := false })
      (hset true) rfl h.k_pos rfl
    exact onNext_next.2 (inv_completeOk (inv_emit hfresh (.notifyLineActive s.cfg.lineSel)))
  · exact onNext_next.2 (inv_completeOk (hset false))

theorem execCtlReset_inv (h : Inv s) : OnNext Inv (execCtlReset s) := by
  have hring := inv_setRing h (ringOk_ringClear h.ring)
  exact onNext_next.2 (inv_completeOk (inv_setFramer_samePhase hring rfl h.k_pos rfl))

theorem execCtlSetRole_inv (h : Inv s) (role : Role) (pull : BitVec 2) : OnNext Inv (execCtlSetRole role pull s) := by
  unfold execCtlSetRole
  split
  · exact onNext_next.2 (inv_reject h .reservedField)
  · next hlegal =>
    have hpull : role = .sink → pull = 0#2 := fun hsink => by_contra fun hne => hlegal ⟨hsink, hne⟩
    exact onNext_next.2 (inv_completeOk (inv_emit (inv_setCfg h { s.cfg with role := role, pull := pull } hpull) _))

theorem execCtlRead_inv (h : Inv s) (idx : BitVec 8) : OnNext Inv (execCtlRead idx s) :=
  execCtlRead_onNext (fun v => inv_complete h (by decide) v) (inv_complete h (by decide) 0#32)

/-! ### Capture Producer and Capture Ring -/

theorem execCapByte_inv (h : Inv s) (b : Byte) : OnNext Inv (execCapByte b s) := by
  unfold execCapByte
  split
  · next hlt => exact onNext_next.2 (inv_setCap h (capOk_land h.params h.cap hlt b))
  · exact onNext_next.2 h

theorem producerEvent_inv (h : Inv s) (ty : BitVec 8) (part signal : Bool) :
    OnNext Inv (producerEvent ty part signal s) := by
  refine producerEvent_onNext fun hle => ?_
  have hdata : (memRead s.cap.bytes 0 s.cap.len.toNat).length ≤ s.params.payloadMax := by rwa [memRead_length]
  have hput := inv_setRing h (ringOk_ringPutOp h.ring s.telem.active ty part hdata)
  have hclear := inv_setCap (inv_unread hput s.crc s.telem (s.out ++ [.captureStop]) s.env)
    (capOk_clear h.cap s.params.payloadMax)
  exact inv_setFramer_samePhase (inv_emit hclear .captureRearm) rfl h.cyc_lt rfl

theorem putCapture_inv (h : Inv s) (line : Line) (ty : BitVec 8) (part : Bool) (data : List Byte) :
    OnNext Inv (putCapture line ty part data s) :=
  putCapture_onNext fun hle => inv_setRing h (ringOk_ringPutOp h.ring line ty part hle)

theorem execRingTake_inv (h : Inv s) : OnNext Inv (execRingTake s) :=
  onNext_next.2 (inv_unread (inv_setRing h (ringOk_ringTakeOp h.ring)) _ _ _ _)

/-! ### Framer, phases with an empty payload -/

theorem execPhaseStopped_inv (h : Inv s) (hphase : s.framer.phase = phStopped) : OnNext Inv (execPhaseStopped s) := by
  unfold execPhaseStopped
  split
  · exact onNext_next.2 (inv_keepEmpty h (by rw [hphase]; rfl) rfl rfl rfl)
  · exact onNext_next.2 h

theorem execPhaseCycleStart_inv (h : Inv s) (hphase : s.framer.phase = phCycleStart) :
    OnNext Inv (execPhaseCycleStart s) := by
  have hfrom : phaseIsEmpty s.framer.phase = true := by rw [hphase]; rfl
  have hto : phaseIsEmpty (if s.framer.cyc = 0 then phTelem else phAssemble) = true := by split <;> rfl
  have hseq : offSeq + (le32 (s.framer.seq + 1#32)).length ≤ offLen := by rw [le32_length]; decide
  have hempty : payloadLen (memWrite s.pkt offSeq (le32 (s.framer.seq + 1#32))) = 0 :=
    (payloadLen_memWrite h.pkt_wf (.inl hseq)).trans (h.emptied hfrom)
  unfold execPhaseCycleStart
  split
  · exact onNext_next.2 (inv_setEmpty h hto h.cyc_lt h.txOff_le (pktOk_memWrite h.params h.pkt (.inl hseq)) hempty)
  · exact onNext_next.2 (inv_keepEmpty h hfrom rfl rfl rfl)

theorem execPhaseTelem_inv (h : Inv s) (hphase : s.framer.phase = phTelem) : OnNext Inv (execPhaseTelem s) := by
  refine execPhaseTelem_onNext fun ans => ?_
  have hdrawn := inv_drawChannels h
  exact inv_keepEmpty (inv_unread hdrawn (drawChannels s).2.crc _ (drawChannels s).2.out (drawChannels s).2.env)
    (by rw [drawChannels_framer, hphase]; rfl) rfl rfl rfl

theorem execPhaseClear_inv (h : Inv s) : OnNext Inv (execPhaseClear s) := by
  exact onNext_next.2 (inv_setEmpty h (phaseIsEmpty_afterClear s.framer) (Nat.mod_lt _ h.k_pos)
    h.txOff_le (pktOk_fillPayload h.params h.pkt rfl (Nat.zero_le _)) (payloadLen_fillPayload h.pkt_wf 0#16 []))

theorem execPhaseIdleSleep_inv (h : Inv s) (hphase : s.framer.phase = phIdleSleep) :
    OnNext Inv (execPhaseIdleSleep s) :=
  onNext_next.2 (inv_keepEmpty h (by rw [hphase]; rfl) rfl rfl rfl)

/-! ### Framer, ASSEMBLE and SEAL -/

/-- A take cycle's write of what it took keeps the packet buffer well-formed (43_framer R123). -/
theorem pktOk_writeTake (hp : s.params.ok) (hpkt : pktOk s.params s.pkt) {res : Option Capture}
    (hfits : ∀ c, res = some c → c.bytes.length = c.len.toNat ∧ c.len.toNat ≤ s.params.payloadMax) (lost : Bool) :
    pktOk s.params (writeTake res lost s).pkt := by
  have htype : ∀ v, offType + (le16 v).length ≤ offLen := fun v => by rw [le16_length]; decide
  cases res with
  | none => exact pktOk_memWrite hp hpkt (.inl (htype _))
  | some c =>
    obtain ⟨hbytes, hle⟩ := hfits c rfl
    exact pktOk_memWrite hp (pktOk_fillPayload hp hpkt hbytes hle) (.inl (htype _))

/-- A take cycle's whole header and payload keep the packet buffer well-formed (43_framer R123). -/
theorem pktOk_assembleTake (h : Inv s) : pktOk s.params (assembleTake s).pkt := by
  have htel : offTel + (telBytes s.telem.tel).length ≤ offLen := by simp [telBytes, offTel, offLen]
  exact pktOk_writeTake
    (s := writePkt offTel (telBytes s.telem.tel)
      { s with ring := { (ringTakeOp s.ring).2 with lostPending := false } })
    h.params (pktOk_memWrite h.params h.pkt (.inl htel)) (fun _ hc => ringTakeOp_capture_fits h.ring hc)
    s.ring.lostPending

/-- A take cycle changes the ring and the packet buffer only (43_framer R123). -/
theorem assembleTake_frame (s : State) :
    assembleTake s =
      { s with ring := { (ringTakeOp s.ring).2 with lostPending := false }, pkt := (assembleTake s).pkt } := by
  unfold assembleTake
  cases (ringTakeOp s.ring).1 <;> rfl

theorem execPhaseAssemble_inv (h : Inv s) : OnNext Inv (execPhaseAssemble s) := by
  unfold execPhaseAssemble
  split
  · have hring : Inv { s with ring := { (ringTakeOp s.ring).2 with lostPending := false } } :=
      inv_setRing h (ringOk_ringTakeOp h.ring)
    rw [onNext_next, assembleTake_frame]
    exact inv_toSeal hring (pktOk_assembleTake h)
  · exact onNext_next.2 (inv_toSeal h h.pkt)

theorem execPhaseSeal_inv (h : Inv s) : OnNext Inv (execPhaseSeal s) := by
  unfold execPhaseSeal
  rw [onNext_next, crcResultOp_of_fresh, pktSpan_eq]
  have hcrc := inv_unread h (crcFold 0xFFFFFFFF#32 (memRead s.pkt 0 s.params.span)) s.telem s.out s.env
  exact inv_setSealed hcrc rfl h.cyc_lt h.txOff_le (fun hsend => absurd hsend txDecide_not_sending)
    (pktOk_memWrite h.params h.pkt (.inr ⟨Nat.le_refl _, Nat.le_refl _⟩)) (pktSealed_memWrite_trailer h.pkt_wf)

/-! ### Framer, phases with a sealed packet -/

theorem execPhaseTxDecide_inv (h : Inv s) (hphase : s.framer.phase = phTxDecide) :
    OnNext Inv (execPhaseTxDecide s) := by
  have hfrom : phaseIsSealed s.framer.phase = true := by rw [hphase]; rfl
  have hpos : 0 < s.params.pktLen := Nat.succ_pos _
  unfold execPhaseTxDecide
  split
  · exact onNext_next.2 (inv_keepSealed h hfrom rfl rfl (Nat.zero_le _) fun _ => hpos)
  · exact onNext_next.2 (inv_keepSealed h hfrom rfl rfl h.txOff_le fun hsend => absurd hsend clear_not_sending)

/-- A stalled write leaves the transmit offset where it was (43_framer R126). -/
theorem inv_txStall (h : Inv s) (hphase : s.framer.phase = phTxWrite) : Inv (txStall s) := by
  have hfrom : phaseIsSealed s.framer.phase = true := by rw [hphase]; rfl
  unfold txStall
  split
  · exact inv_keepSealed (inv_setCfg h { s.cfg with run := false } h.role) hfrom rfl rfl h.txOff_le
      fun _ => h.txOff_lt (.inl hphase)
  · exact inv_keepSealed h hfrom rfl rfl h.txOff_le fun _ => h.txOff_lt (.inl hphase)

/-- An accepted write ends at PKT_LEN or stays below it (43_framer R126). -/
theorem inv_txAccept (h : Inv s) (hphase : s.framer.phase = phTxWrite) {k : Nat}
    (hk : s.framer.txOff + k ≤ s.params.pktLen) : Inv (txAccept k s) := by
  have hfrom : phaseIsSealed s.framer.phase = true := by rw [hphase]; rfl
  unfold txAccept
  refine inv_emit ?_ _
  refine inv_keepSealed h hfrom ?_ rfl hk fun hsend => Nat.lt_of_le_of_ne hk fun hend => ?_
  · dsimp only; split <;> rfl
  · rw [if_pos hend] at hsend
    exact clear_not_sending hsend

theorem execPhaseTxWrite_inv (h : Inv s) (hphase : s.framer.phase = phTxWrite) : OnNext Inv (execPhaseTxWrite s) := by
  have hdrawn : (drawTx s).2.framer.phase = phTxWrite := by rw [drawTx_framer, hphase]
  refine execPhaseTxWrite_onNext (inv_txStall (inv_drawTx h) hdrawn) fun hanswer => ?_
  refine inv_txAccept (inv_drawTx h) hdrawn ?_
  rw [drawTx_framer, drawTx_params]
  have hle := h.txOff_le
  unfold offered at hanswer
  omega

theorem execPhaseTxSleep_inv (h : Inv s) (hphase : s.framer.phase = phTxSleep) : OnNext Inv (execPhaseTxSleep s) := by
  exact onNext_next.2 (inv_keepSealed h (by rw [hphase]; rfl) rfl rfl h.txOff_le fun _ => h.txOff_lt (.inr hphase))

/-! ### Every instruction, every step -/

/-- Every instruction keeps the invariant, a phase in the phase register's own. -/
theorem exec_inv (h : Inv s) (i : Instr) (hphase : PhaseIs s i) : OnNext Inv (exec i s) := by
  cases i with
  | ctlStart run => exact execCtlStart_inv h run
  | ctlReset => exact execCtlReset_inv h
  | ctlSetLine sel =>
    exact onNext_next.2 (inv_completeOk (inv_emit (inv_setCfg h { s.cfg with lineSel := sel } h.role) _))
  | ctlSetRole role pull => exact execCtlSetRole_inv h role pull
  | ctlSetOutmode onCapture =>
    exact onNext_next.2 (inv_completeOk (inv_setCfg h { s.cfg with suppress := onCapture } h.role))
  | ctlSetAutostop on => exact onNext_next.2 (inv_completeOk (inv_setCfg h { s.cfg with autostop := on } h.role))
  | ctlSetIdle us => exact onNext_next.2 (inv_completeOk (inv_setCfg h { s.cfg with idleUs := us } h.role))
  | ctlRead idx => exact execCtlRead_inv h idx
  | capByte b => exact execCapByte_inv h b
  | evRxComplete ty => exact producerEvent_inv h ty false true
  | evRxError ty => exact producerEvent_inv h ty true false
  | ringPut line ty part data => exact putCapture_inv h line ty part data
  | ringTake => exact execRingTake_inv h
  | crcInit => exact onNext_next.2 (inv_unread h _ _ _ _)
  | crcHash data => exact onNext_next.2 (inv_unread h _ _ _ _)
  | crcResult => exact onNext_next.2 (inv_unread h _ _ _ _)
  | phaseStopped => exact execPhaseStopped_inv h (hphase _ rfl)
  | phaseCycleStart => exact execPhaseCycleStart_inv h (hphase _ rfl)
  | phaseTelem => exact execPhaseTelem_inv h (hphase _ rfl)
  | phaseAssemble => exact execPhaseAssemble_inv h
  | phaseSeal => exact execPhaseSeal_inv h
  | phaseTxDecide => exact execPhaseTxDecide_inv h (hphase _ rfl)
  | phaseTxWrite => exact execPhaseTxWrite_inv h (hphase _ rfl)
  | phaseTxSleep => exact execPhaseTxSleep_inv h (hphase _ rfl)
  | phaseClear => exact execPhaseClear_inv h
  | phaseIdleSleep => exact execPhaseIdleSleep_inv h (hphase _ rfl)

end Sys2Proof.Machine
end

section
namespace Sys2Proof.Machine

/-- Settles O4: taking the turn keeps the invariant, and then so does the instruction (`exec_inv`), the rejection of a
control word or the ignoring of a capture word. -/
theorem stepKeepsInvariant : Obligations.StepKeepsInvariant := by
  intro s t h
  have hturn : Inv (afterTurn s) := inv_afterTurn h
  exact step_onNext (exec_inv hturn) (inv_reject hturn) hturn t

/-- The power-on state meets the invariant for parameters within their constraints and at least two slots. -/
theorem inv_powerOn {p : Params} (hp : p.ok) {n : Nat} (hn : 2 ≤ n) (idle : BitVec 24) :
    Inv (State.powerOn p n idle) := by
  have hk : 3 ≤ p.k := hp.1
  have hslots := powerOn_nslots p n idle
  have hpos : 0 < n := Nat.zero_lt_of_lt hn
  have hring : ringOk p (State.powerOn p n idle).ring :=
    ⟨hslots.symm ▸ hn, Nat.lt_of_lt_of_eq hpos hslots.symm, Nat.lt_of_lt_of_eq hpos hslots.symm,
      fun sl hsl => by rw [List.eq_of_mem_replicate hsl]; exact ⟨Nat.zero_le _, rfl, rfl⟩⟩
  exact
    { params := hp
      ring := hring
      cap := ⟨Nat.zero_le _, rfl, rfl⟩
      framer := ⟨Nat.zero_le _, Nat.zero_lt_of_lt hk, Nat.zero_le _, fun _ => Nat.succ_pos _⟩
      pkt := ⟨rfl, rfl, rfl, rfl, payloadLen_nil.trans_le (Nat.zero_le _), fun _ _ _ => rfl⟩
      isSealed := fun hs => nomatch hs
      emptied := fun _ => payloadLen_nil
      role := fun _ => rfl
      code := Nat.zero_le _ }

/-- Settles O3: `State.reset` is the power-on state of the reference parameters. -/
theorem resetMeetsInvariant : Obligations.ResetMeetsInvariant :=
  ⟨inv_powerOn reference_ok two_le_nslots Config.idleUsReset, fun _ _ idle hp hn => inv_powerOn hp hn idle⟩

end Sys2Proof.Machine
end

/-! ## Frames: what an instruction of each issuer can write and emit -/

section
namespace Sys2Proof.Machine

/-- The ports by which each issuer's instructions emit events (60_exceptions R190). -/
def mayEmit : Issuer → Event → Prop
  | .host, e => eventPort e = .control ∨ eventPort e = .lineConfig ∨ eventPort e = .observer
  | .captureHardware, e => eventPort e = .capture
  | .ownUnit, _ => False
  | .framer, e => eventPort e = .transport

/-- The output history grows by events that the issuer may emit (10_state R37). -/
def Emits (who : Issuer) (s t : State) : Prop := ∃ es, t.out = s.out ++ es ∧ ∀ e ∈ es, mayEmit who e

theorem emits_of_out_eq {who : Issuer} {s t : State} (h : t.out = s.out) : Emits who s t :=
  ⟨[], by rw [h, List.append_nil], nofun⟩

theorem Emits.append_one {who : Issuer} {s t u : State} {e : Event} (h : Emits who s t) (he : mayEmit who e)
    (hout : u.out = t.out ++ [e]) : Emits who s u := by
  obtain ⟨es, ht, hes⟩ := h
  refine ⟨es ++ [e], by rw [hout, ht, List.append_assoc], fun x hx => ?_⟩
  rcases List.mem_append.1 hx with hold | hnew
  · exact hes x hold
  · rwa [List.mem_singleton.1 hnew]

/-- A command writes configuration, status register, autostopped and history; CTL_RESET also the ring, and it and
start(true) the numbering (44_control R151, R152, R159). -/
structure HostFrame (i : Instr) (s t : State) : Prop where
  rest : t =
    { s with
      ring := t.ring, cfg := t.cfg, errCode := t.errCode, out := t.out
      framer := { s.framer with seq := t.framer.seq, cyc := t.framer.cyc, autostopped := t.framer.autostopped } }
  ring : i ≠ .ctlReset → t.ring = s.ring
  numbering : i ≠ .ctlStart true → i ≠ .ctlReset → t.framer.seq = s.framer.seq ∧ t.framer.cyc = s.framer.cyc
  emits : Emits .host s t

/-- A capture-port operation writes capture buffer, wake latch and history; the two events also the ring (42_producer
R100 to R103). -/
structure ProducerFrame (i : Instr) (s t : State) : Prop where
  rest : t = { s with ring := t.ring, cap := t.cap, framer := { s.framer with wake := t.framer.wake }, out := t.out }
  ring : (∀ ty, i ≠ .evRxComplete ty) → (∀ ty, i ≠ .evRxError ty) → t.ring = s.ring
  emits : Emits .captureHardware s t

/-- An internal operation writes the ring or the CRC register, and its side-band result (41_ring R88, R89, 40_crc R83
to R85). -/
structure UnitFrame (i : Instr) (s t : State) : Prop where
  rest : t = { s with ring := t.ring, crc := t.crc, env := t.env }
  ring : (∀ l ty p d, i ≠ .ringPut l ty p d) → i ≠ .ringTake → t.ring = s.ring
  crc : i ≠ .crcInit → (∀ d, i ≠ .crcHash d) → t.crc = s.crc

/-- A phase leaves capture buffer and status register; only ASSEMBLE writes the ring, only SEAL the CRC register
(43_framer R123, R124). -/
structure PhaseFrame (i : Instr) (s t : State) : Prop where
  cap : t.cap = s.cap
  errCode : t.errCode = s.errCode
  ring : i ≠ .phaseAssemble → t.ring = s.ring
  crc : i ≠ .phaseSeal → t.crc = s.crc
  emits : Emits .framer s t

/-- The frame of an instruction is that of its issuer. -/
def Frame (i : Instr) (s t : State) : Prop :=
  match issuer i with
  | .host => HostFrame i s t
  | .captureHardware => ProducerFrame i s t
  | .ownUnit => UnitFrame i s t
  | .framer => PhaseFrame i s t

variable {i : Instr} {s t : State}

theorem Frame.host (h : Frame i s t) (hi : issuer i = .host) : HostFrame i s t := by
  unfold Frame at h
  rwa [hi] at h

theorem Frame.producer (h : Frame i s t) (hi : issuer i = .captureHardware) : ProducerFrame i s t := by
  unfold Frame at h
  rwa [hi] at h

theorem Frame.ownUnit (h : Frame i s t) (hi : issuer i = .ownUnit) : UnitFrame i s t := by
  unfold Frame at h
  rwa [hi] at h

theorem Frame.phase (h : Frame i s t) (hi : issuer i = .framer) : PhaseFrame i s t := by
  unfold Frame at h
  rwa [hi] at h

/-! What the equation of each frame says of single fields. -/

theorem HostFrame.cap (h : HostFrame i s t) : t.cap = s.cap := by rw [h.rest]
theorem HostFrame.crc (h : HostFrame i s t) : t.crc = s.crc := by rw [h.rest]
theorem ProducerFrame.crc (h : ProducerFrame i s t) : t.crc = s.crc := by rw [h.rest]
theorem ProducerFrame.errCode (h : ProducerFrame i s t) : t.errCode = s.errCode := by rw [h.rest]
theorem UnitFrame.cap (h : UnitFrame i s t) : t.cap = s.cap := by rw [h.rest]
theorem UnitFrame.errCode (h : UnitFrame i s t) : t.errCode = s.errCode := by rw [h.rest]
theorem UnitFrame.out (h : UnitFrame i s t) : t.out = s.out := by rw [h.rest]

/-! ### The commands -/

theorem hostFrame_setCfg (i : Instr) (s : State) (c : RunConfig) : HostFrame i s { s with cfg := c } :=
  ⟨rfl, fun _ => rfl, fun _ _ => ⟨rfl, rfl⟩, emits_of_out_eq rfl⟩

theorem HostFrame.emit (h : HostFrame i s t) {e : Event} (he : mayEmit .host e) :
    HostFrame i s (Machine.emit e t) :=
  ⟨by rw [h.rest]; rfl, h.ring, h.numbering, h.emits.append_one he rfl⟩

theorem HostFrame.complete (h : HostFrame i s t) (code : BitVec 8) (v : Word) :
    HostFrame i s (Machine.complete code v t) :=
  ⟨by rw [h.rest]; rfl, h.ring, h.numbering, h.emits.append_one (.inl rfl) rfl⟩

theorem HostFrame.completeOk (h : HostFrame i s t) : HostFrame i s (Machine.completeOk t) := h.complete codeOk 0#32

theorem execCtlStart_frame (run : Bool) (s : State) : OnNext (HostFrame (.ctlStart run) s) (execCtlStart run s) := by
  cases run with
  | false => exact onNext_next.2 (hostFrame_setCfg _ s _).completeOk
  | true =>
    have hfresh : HostFrame (.ctlStart true) s (startFresh (setRun true s)) :=
      ⟨rfl, fun _ => rfl, fun hne => absurd rfl hne,
        (emits_of_out_eq (t := s) rfl).append_one (e := .notifyLineActive s.cfg.lineSel) (.inr (.inr rfl)) rfl⟩
    exact onNext_next.2 hfresh.completeOk

theorem execCtlReset_frame (s : State) : OnNext (HostFrame .ctlReset s) (execCtlReset s) := by
  have hcleared : HostFrame .ctlReset s
      { s with ring := ringClear s.ring, framer := { s.framer with seq := 0#32, cyc := 0 } } :=
    ⟨rfl, fun hne => absurd rfl hne, fun _ hne => absurd rfl hne, emits_of_out_eq rfl⟩
  exact onNext_next.2 hcleared.completeOk

theorem execCtlSetRole_frame (role : Role) (pull : BitVec 2) (s : State) :
    OnNext (HostFrame (.ctlSetRole role pull) s) (execCtlSetRole role pull s) := by
  unfold execCtlSetRole
  split
  · exact onNext_next.2 ((hostFrame_setCfg _ s s.cfg).complete codeReservedField 0#32)
  · exact onNext_next.2 ((hostFrame_setCfg _ s _).emit (.inr (.inl rfl))).completeOk

theorem execCtlRead_frame (idx : BitVec 8) (s : State) : OnNext (HostFrame (.ctlRead idx) s) (execCtlRead idx s) :=
  execCtlRead_onNext (fun v => (hostFrame_setCfg _ s s.cfg).complete codeOk v)
    ((hostFrame_setCfg _ s s.cfg).complete codeBadRegIndex 0#32)

/-! ### The capture port -/

theorem execCapByte_frame (b : Byte) (s : State) : OnNext (ProducerFrame (.capByte b) s) (execCapByte b s) := by
  unfold execCapByte
  split <;> exact onNext_next.2 ⟨rfl, fun _ _ => rfl, emits_of_out_eq rfl⟩

/-- Both capture events stop and re-arm the capture path around their put (42_producer R101). -/
theorem producerEvent_frame {ty : BitVec 8} {part signal : Bool} {s : State}
    (hi : i = .evRxComplete ty ∨ i = .evRxError ty) :
    OnNext (ProducerFrame i s) (producerEvent ty part signal s) := by
  refine producerEvent_onNext fun _ => ⟨rfl, fun hcomplete herror => ?_, ?_⟩
  · exact (hi.elim (hcomplete ty) (herror ty)).elim
  · have hstop : Emits .captureHardware s (emit .captureStop s) :=
      (emits_of_out_eq (t := s) rfl).append_one (e := .captureStop) rfl rfl
    exact hstop.append_one (e := .captureRearm) rfl rfl

/-! ### The phases -/

theorem execPhaseCycleStart_frame (s : State) : OnNext (PhaseFrame .phaseCycleStart s) (execPhaseCycleStart s) := by
  unfold execPhaseCycleStart
  split <;> exact onNext_next.2 ⟨rfl, rfl, fun _ => rfl, fun _ => rfl, emits_of_out_eq rfl⟩

theorem execPhaseTelem_frame (s : State) : OnNext (PhaseFrame .phaseTelem s) (execPhaseTelem s) :=
  execPhaseTelem_onNext fun _ =>
    ⟨drawChannels_cap s, drawChannels_errCode s, fun _ => drawChannels_ring s, fun _ => drawChannels_crc s,
      emits_of_out_eq (drawChannels_out s)⟩

theorem execPhaseAssemble_frame (s : State) : OnNext (PhaseFrame .phaseAssemble s) (execPhaseAssemble s) := by
  unfold execPhaseAssemble
  split
  · exact onNext_next.2 ⟨assembleTake_cap s, assembleTake_errCode s, fun hne => absurd rfl hne,
      fun _ => assembleTake_crc s, emits_of_out_eq (assembleTake_out s)⟩
  · exact onNext_next.2 ⟨rfl, rfl, fun _ => rfl, fun _ => rfl, emits_of_out_eq rfl⟩

theorem execPhaseTxDecide_frame (s : State) : OnNext (PhaseFrame .phaseTxDecide s) (execPhaseTxDecide s) := by
  unfold execPhaseTxDecide
  split <;> exact onNext_next.2 ⟨rfl, rfl, fun _ => rfl, fun _ => rfl, emits_of_out_eq rfl⟩

theorem execPhaseTxWrite_frame (s : State) : OnNext (PhaseFrame .phaseTxWrite s) (execPhaseTxWrite s) := by
  refine execPhaseTxWrite_onNext ?_ fun _ => ?_
  · exact ⟨by simp, by simp, fun _ => by simp, fun _ => by simp, emits_of_out_eq (by simp)⟩
  · exact ⟨by simp, by simp, fun _ => by simp, fun _ => by simp,
      (emits_of_out_eq (drawTx_out s)).append_one (e := .txBytes _) rfl (txAccept_out _ _)⟩

/-! ### Every instruction -/

/-- Each instruction keeps to the frame of its issuer. -/
theorem exec_frame (i : Instr) (s : State) : OnNext (Frame i s) (exec i s) := by
  cases i with
  | ctlStart run => exact execCtlStart_frame run s
  | ctlReset => exact execCtlReset_frame s
  | ctlSetLine sel => exact onNext_next.2 ((hostFrame_setCfg (.ctlSetLine sel) s _).emit (.inr (.inl rfl))).completeOk
  | ctlSetRole role pull => exact execCtlSetRole_frame role pull s
  | ctlSetOutmode onCapture => exact onNext_next.2 (hostFrame_setCfg (.ctlSetOutmode onCapture) s _).completeOk
  | ctlSetAutostop on => exact onNext_next.2 (hostFrame_setCfg (.ctlSetAutostop on) s _).completeOk
  | ctlSetIdle us => exact onNext_next.2 (hostFrame_setCfg (.ctlSetIdle us) s _).completeOk
  | ctlRead idx => exact execCtlRead_frame idx s
  | capByte b => exact execCapByte_frame b s
  | evRxComplete ty => exact producerEvent_frame (.inl rfl)
  | evRxError ty => exact producerEvent_frame (.inr rfl)
  | ringPut line ty part data =>
    exact putCapture_onNext fun _ => ⟨rfl, fun hne => absurd rfl (hne _ _ _ _), fun _ _ => rfl⟩
  | ringTake => exact onNext_next.2 ⟨rfl, fun _ hne => absurd rfl hne, fun _ _ => rfl⟩
  | crcInit => exact onNext_next.2 ⟨rfl, fun _ _ => rfl, fun hne => absurd rfl hne⟩
  | crcHash data => exact onNext_next.2 ⟨rfl, fun _ _ => rfl, fun _ hne => absurd rfl (hne _)⟩
  | crcResult => exact onNext_next.2 ⟨rfl, fun _ _ => rfl, fun _ _ => rfl⟩
  | phaseStopped =>
    simp only [exec, execPhaseStopped]
    split <;> exact onNext_next.2 ⟨rfl, rfl, fun _ => rfl, fun _ => rfl, emits_of_out_eq rfl⟩
  | phaseCycleStart => exact execPhaseCycleStart_frame s
  | phaseTelem => exact execPhaseTelem_frame s
  | phaseAssemble => exact execPhaseAssemble_frame s
  | phaseSeal => exact onNext_next.2 ⟨rfl, rfl, fun _ => rfl, fun hne => absurd rfl hne, emits_of_out_eq rfl⟩
  | phaseTxDecide => exact execPhaseTxDecide_frame s
  | phaseTxWrite => exact execPhaseTxWrite_frame s
  | phaseTxSleep => exact onNext_next.2 ⟨rfl, rfl, fun _ => rfl, fun _ => rfl, emits_of_out_eq rfl⟩
  | phaseClear => exact onNext_next.2 ⟨rfl, rfl, fun _ => rfl, fun _ => rfl, emits_of_out_eq rfl⟩
  | phaseIdleSleep => exact onNext_next.2 ⟨rfl, rfl, fun _ => rfl, fun _ => rfl, emits_of_out_eq rfl⟩

/-- An instruction emits only by the ports of its issuer. -/
theorem exec_emits (i : Instr) (s : State) : OnNext (Emits (issuer i) s) (exec i s) := by
  intro t ht
  have h := exec_frame i s t ht
  cases hi : issuer i with
  | host => exact (h.host hi).emits
  | captureHardware => exact (h.producer hi).emits
  | ownUnit => exact emits_of_out_eq (h.ownUnit hi).out
  | framer => exact (h.phase hi).emits

end Sys2Proof.Machine
end

/-! ## Who writes what -/

section
namespace Sys2Proof.Machine

/-- Settles O21: a command, a capture-port operation and an internal operation each keep to their frame. -/
theorem framerOwnsItsState : Obligations.FramerOwnsItsState := by
  intro i s t hi hexec
  have h := exec_frame i s t hexec
  cases hwho : issuer i with
  | host =>
    have hf := h.host hwho
    have hrest := hf.rest
    refine ⟨?_, ?_, ?_, ?_, ?_, ?_, ?_, hf.numbering, fun hne => absurd rfl hne⟩ <;> rw [hrest]
  | captureHardware =>
    have hrest := (h.producer hwho).rest
    refine ⟨?_, ?_, ?_, ?_, ?_, ?_, ?_, fun _ _ => ⟨?_, ?_⟩, fun _ => ⟨?_, ?_, ?_⟩⟩ <;> rw [hrest]
  | ownUnit =>
    have hrest := (h.ownUnit hwho).rest
    refine ⟨?_, ?_, ?_, ?_, ?_, ?_, ?_, fun _ _ => ⟨?_, ?_⟩, fun _ => ⟨?_, ?_, ?_⟩⟩ <;> rw [hrest]
  | framer => exact absurd hwho hi

/-- The capture hardware issues three operations, each of which writes the capture buffer (42_producer R100 to R103). -/
theorem not_captureHardware {i : Instr} (hbyte : ∀ b, i ≠ .capByte b) (hcomplete : ∀ ty, i ≠ .evRxComplete ty)
    (herror : ∀ ty, i ≠ .evRxError ty) : issuer i ≠ .captureHardware := by
  cases i with
  | capByte b => exact absurd rfl (hbyte b)
  | evRxComplete ty => exact absurd rfl (hcomplete ty)
  | evRxError ty => exact absurd rfl (herror ty)
  | _ => exact nofun

/-- Settles O23: each of the four frames names its writers of the four fields. -/
theorem ringBufferCrcWriters : Obligations.RingBufferCrcWriters := by
  intro i s t hexec
  have h := exec_frame i s t hexec
  cases hwho : issuer i with
  | host =>
    have hf := h.host hwho
    exact ⟨fun _ _ _ _ _ => hf.ring, fun _ _ _ => hf.cap, fun _ _ _ => hf.crc, fun hne => absurd rfl hne⟩
  | captureHardware =>
    have hf := h.producer hwho
    exact ⟨fun hcomplete herror _ _ _ _ => hf.ring hcomplete herror,
      fun hbyte hcomplete herror => (not_captureHardware hbyte hcomplete herror hwho).elim,
      fun _ _ _ => hf.crc, fun _ => hf.errCode⟩
  | ownUnit =>
    have hf := h.ownUnit hwho
    exact ⟨fun _ _ hput htake _ _ => hf.ring hput htake, fun _ _ _ => hf.cap, fun hinit hhash _ => hf.crc hinit hhash,
      fun _ => hf.errCode⟩
  | framer =>
    have hf := h.phase hwho
    exact ⟨fun _ _ _ _ hassemble _ => hf.ring hassemble, fun _ _ _ => hf.cap, fun _ _ hseal => hf.crc hseal,
      fun _ => hf.errCode⟩

/-! ### Events and ports -/

/-- Who issues the instructions that arrive at a port (30_encoding R65). -/
def portIssuer : Port → Issuer
  | .control => .host
  | .capture => .captureHardware
  | .internal => .ownUnit

/-- The opcode map puts each operation at the port of its issuer (30_encoding R69). -/
theorem issuer_operands_of_mem_opTable {row : OpRow} (h : row ∈ opTable) (w : Word) (d : List Byte) :
    issuer (operands row.op w d) = portIssuer row.port := by
  fin_cases h <;> rfl

/-- A port accepts only the instructions of its issuer (30_encoding R65, R71). -/
theorem issuer_of_decodeAt {p : Port} {w : Word} {d : List Byte} {i : Instr} (h : decodeAt p w d = .ok i) :
    issuer i = portIssuer p := by
  unfold decodeAt at h
  split at h
  · cases h
  · next row hrow =>
    split at h
    · cases h
    · next hport =>
      split at h
      · cases h
      · split at h
        · cases h
        · cases h
          rw [issuer_operands_of_mem_opTable (List.mem_of_find?_eq_some hrow), Decidable.not_not.1 hport]

/-- A phase code names a phase of the framer (30_encoding R76). -/
theorem issuer_of_decodePhase {c : BitVec 4} {i : Instr} (h : decodePhase c = some i) : issuer i = .framer := by
  have hall : ∀ c : BitVec 4, ∀ i ∈ decodePhase c, issuer i = .framer := by decide
  exact hall c i h

/-- The agent of a turn, as an issuer. -/
def turnIssuer : Turn → Issuer
  | .agent (.control _) => .host
  | .agent (.capture _) => .captureHardware
  | .agent .framer => .framer
  | .internal _ _ => .ownUnit

/-- A step emits only by the ports of the agent whose turn it is. -/
theorem step_emits (s : State) : OnNext (Emits (turnIssuer (nextTurn s)) s) (step s) := by
  have hexec : ∀ {i who}, issuer i = who → OnNext (Emits who s) (exec i (afterTurn s)) := by
    rintro i _ rfl t ht
    have h := exec_emits i (afterTurn s) t ht
    unfold Emits at h ⊢
    rwa [afterTurn_out] at h
  have hturn : ∀ who, Emits who s (afterTurn s) := fun _ => emits_of_out_eq (afterTurn_out s)
  rw [step_eq]
  split
  · next w hw =>
    split
    · next i hi => rw [hw]; exact hexec (issuer_of_decodeAt hi)
    · rw [hw, onNext_next]; exact (hturn .host).append_one (.inl rfl) rfl
  · next w hw =>
    split
    · next i hi => rw [hw]; exact hexec (issuer_of_decodeAt hi)
    · exact onNext_next.2 (hturn _)
  · next hw =>
    split
    · next i hi => rw [hw]; exact hexec (issuer_of_decodePhase hi)
    · exact onNext_fault _ _
  · next w d hw =>
    split
    · next i hi => rw [hw]; exact hexec (issuer_of_decodeAt hi)
    · exact onNext_fault _ _

/-- Settles O19: the events of a step are those its agent may emit (`step_emits`). -/
theorem eventsLeaveByTheirPorts : Obligations.EventsLeaveByTheirPorts := by
  intro s t hstep
  obtain ⟨es, hout, hes⟩ := step_emits s t hstep
  refine ⟨es, hout, fun w hw => ?_, fun w hw => ?_, fun hw => ?_, fun w d hw => ?_⟩ <;> rw [hw] at hes
  · exact hes
  · exact hes
  · exact hes
  · exact List.eq_nil_iff_forall_not_mem.2 hes

end Sys2Proof.Machine
end

/-! ## Unread slot bytes: what each ring operation does to two rings that differ only in them -/

section
namespace Sys2Proof.Machine

/-! ### Slots -/

theorem slotAgree_refl (x : Slot) : slotAgree x x := ⟨rfl, rfl, rfl, rfl, fun _ _ => rfl⟩

/-- The capture a slot hands over holds no byte beyond its length (41_ring R89). -/
theorem slotCapture_congr {x y : Slot} (h : slotAgree x y) : slotCapture x = slotCapture y := by
  obtain ⟨hlen, hline, hty, hpart, hdata⟩ := h
  have hbytes : memRead x.data 0 x.len.toNat = memRead y.data 0 x.len.toNat :=
    memRead_congr fun j hj => by simpa using hdata j hj
  simp only [slotCapture, ← hlen, hline, hty, hpart, hbytes]

/-- A put writes every byte below the new length, so that nothing of the old slot can be read (41_ring R88). -/
theorem slotAgree_putSlot {x y : Slot} (hx : x.data.wf = true) (hy : y.data.wf = true) (line : Line) (ty : BitVec 8)
    (part : Bool) (data : List Byte) : slotAgree (putSlot x line ty part data) (putSlot y line ty part data) := by
  refine ⟨rfl, rfl, rfl, rfl, fun j hj => ?_⟩
  have hlt : j < data.length := by
    have hmod : data.length % 2 ^ 16 ≤ data.length := Nat.mod_le _ _
    simp only [putSlot, BitVec.toNat_ofNat] at hj
    omega
  have hin : 0 ≤ j ∧ j < 0 + data.length := by omega
  simp only [putSlot, readByte_memWrite hx, readByte_memWrite hy, if_pos hin]

/-- A slot whose length is cleared shows no byte (41_ring R89, R90). -/
theorem slotAgree_of_empty {x y : Slot} (hx : x.len = 0#16) (hy : y.len = 0#16) (hline : x.line = y.line)
    (hty : x.ty = y.ty) (hpart : x.part = y.part) : slotAgree x y :=
  ⟨hx.trans hy.symm, hline, hty, hpart, fun j hj => absurd hj (by simp [hx])⟩

/-! ### Lists of slots -/

theorem slotAgree_getElem? {l l' : List Slot} (h : List.Forall₂ slotAgree l l') (i : Nat) :
    slotAgree (l[i]?.getD Slot.empty) (l'[i]?.getD Slot.empty) := by
  induction h generalizing i with
  | nil => exact slotAgree_refl _
  | cons hxy _ ih =>
    cases i with
    | zero => exact hxy
    | succ i => exact ih i

theorem forall₂_slotAgree_set {l l' : List Slot} (h : List.Forall₂ slotAgree l l') {v v' : Slot}
    (hv : slotAgree v v') (i : Nat) : List.Forall₂ slotAgree (l.set i v) (l'.set i v') := by
  induction h generalizing i with
  | nil => exact .nil
  | cons hxy hrest ih =>
    cases i with
    | zero => exact .cons hv hrest
    | succ i => exact .cons hxy (ih i)

/-! ### Rings -/

/-- Two rings that differ at most in data bytes at or beyond the slots' lengths. -/
structure RingAgree (g g' : Ring) : Prop where
  w : g'.w = g.w
  r : g'.r = g.r
  lostPending : g'.lostPending = g.lostPending
  drops : g'.drops = g.drops
  slots : List.Forall₂ slotAgree g.slots g'.slots

variable {g g' : Ring}

theorem RingAgree.nslots (h : RingAgree g g') : g'.nslots = g.nslots := h.slots.length_eq.symm

theorem RingAgree.getSlot (h : RingAgree g g') (i : Nat) : slotAgree (getSlot g i) (getSlot g' i) :=
  slotAgree_getElem? h.slots i

theorem RingAgree.nextIndex (h : RingAgree g g') (i : Nat) : nextIndex g' i = nextIndex g i := by
  simp only [Machine.nextIndex, h.nslots]

theorem RingAgree.ringCount (h : RingAgree g g') : ringCount g' = ringCount g := by
  simp only [Machine.ringCount, h.nslots, h.w, h.r]

/-- A put of the same capture (41_ring R88). -/
theorem RingAgree.put (h : RingAgree g g') (hwf : (Machine.getSlot g g.w).data.wf = true)
    (hwf' : (Machine.getSlot g' g'.w).data.wf = true) (line : Line) (ty : BitVec 8) (part : Bool) (data : List Byte) :
    RingAgree (ringPutOp line ty part data g) (ringPutOp line ty part data g') := by
  have hslot := slotAgree_putSlot hwf hwf' line ty part data
  rw [ringPutOp_eq, ringPutOp_eq]
  constructor
  case slots => simpa only [h.w] using forall₂_slotAgree_set h.slots hslot g.w
  all_goals simp only [h.nextIndex, h.w, h.r, h.lostPending, h.drops]

/-- A take hands over the same capture (41_ring R89). -/
theorem RingAgree.take_fst (h : RingAgree g g') : (ringTakeOp g').1 = (ringTakeOp g).1 := by
  have hslot := slotCapture_congr (h.getSlot g.r)
  simp only [ringTakeOp, h.w, h.r, hslot]
  split <;> rfl

/-- A take leaves rings that agree again (41_ring R89). -/
theorem RingAgree.take_snd (h : RingAgree g g') : RingAgree (ringTakeOp g).2 (ringTakeOp g').2 := by
  by_cases hempty : g.r = g.w
  · rwa [ringTakeOp_empty hempty, ringTakeOp_empty (by rwa [h.r, h.w])]
  · rw [ringTakeOp_some hempty, ringTakeOp_some (by rwa [h.r, h.w]), h.r]
    obtain ⟨-, hline, hty, hpart, -⟩ := h.getSlot g.r
    have hslot : slotAgree { Machine.getSlot g g.r with len := 0#16 } { Machine.getSlot g' g.r with len := 0#16 } :=
      slotAgree_of_empty rfl rfl hline hty hpart
    exact ⟨h.w, h.nextIndex g.r, h.lostPending, h.drops, forall₂_slotAgree_set h.slots hslot g.r⟩

/-- `ring_clear()` leaves rings that agree (41_ring R90). -/
theorem RingAgree.clear (h : RingAgree g g') : RingAgree (ringClear g) (ringClear g') :=
  have hslot : ∀ x y, slotAgree x y → slotAgree (clearSlot x) (clearSlot y) :=
    fun _ _ _ => slotAgree_of_empty rfl rfl rfl rfl rfl
  ⟨rfl, rfl, rfl, rfl, List.forall₂_map_left_iff.2 (List.forall₂_map_right_iff.2 (h.slots.imp hslot))⟩

end Sys2Proof.Machine
end

/-! ## Unread slot bytes: what each instruction does to two states that differ only in them -/

section
namespace Sys2Proof.Machine

/-- The state with another ring. -/
def withRing (g : Ring) (s : State) : State := { s with ring := g }

variable {g : Ring} {s : State}

/-- States that differ only in unread slot bytes are one state with two rings that agree. -/
theorem sameButUnreadBytes_iff {t : State} :
    sameButUnreadBytes s t ↔ ∃ g, RingAgree s.ring g ∧ t = withRing g s := by
  constructor
  · rintro ⟨ht, hslots⟩
    exact ⟨{ s.ring with slots := t.ring.slots }, ⟨rfl, rfl, rfl, rfl, hslots⟩, ht⟩
  · rintro ⟨⟨slots, w, r, lost, drops⟩, ⟨hw, hr, hlost, hdrops, hslots⟩, rfl⟩
    subst hw hr hlost hdrops
    exact ⟨rfl, hslots⟩

/-- Two steps that end alike: in the same fault, or in states that differ only in unread slot bytes. -/
def SameStep (x y : Result) : Prop :=
  (∀ t, x = .next t → ∃ t', y = .next t' ∧ sameButUnreadBytes t t') ∧ ∀ f, x = .fault f → y = .fault f

theorem sameStep_fault (f : Fault) : SameStep (.fault f) (.fault f) := ⟨fun _ h => (nomatch h), fun _ h => h⟩

theorem sameStep_next {t : State} (h : RingAgree t.ring g) : SameStep (.next t) (.next (withRing g t)) := by
  refine ⟨fun u hu => ?_, fun _ hf => nomatch hf⟩
  cases hu
  exact ⟨_, rfl, sameButUnreadBytes_iff.2 ⟨g, h, rfl⟩⟩

/-- Two steps that branch on the same condition. -/
theorem SameStep.ite {c : Prop} [Decidable c] {x x' y y' : Result} (hpos : SameStep x y) (hneg : SameStep x' y') :
    SameStep (if c then x else x') (if c then y else y') := by
  split
  · exact hpos
  · exact hneg

/-! ### What reads no slot byte -/

theorem afterTurn_withRing (g : Ring) (s : State) : afterTurn (withRing g s) = withRing g (afterTurn s) := by
  simp only [afterTurn, withRing]
  split <;> rfl

theorem drawMeas_withRing (g : Ring) (s : State) :
    drawMeas (withRing g s) = ((drawMeas s).1, withRing g (drawMeas s).2) := by
  simp only [drawMeas, withRing]
  split <;> rfl

theorem drawChannels_withRing (g : Ring) (s : State) :
    drawChannels (withRing g s) = ((drawChannels s).1, withRing g (drawChannels s).2) := by
  simp only [drawChannels, drawMeas_withRing]

theorem drawTx_withRing (g : Ring) (s : State) :
    drawTx (withRing g s) = ((drawTx s).1, withRing g (drawTx s).2) := by
  simp only [drawTx, withRing]
  split <;> rfl

theorem txStall_withRing (g : Ring) (s : State) : txStall (withRing g s) = withRing g (txStall s) := by
  unfold txStall
  rw [apply_ite (withRing g)]
  rfl

theorem txAccept_withRing (k : Nat) (g : Ring) (s : State) :
    txAccept k (withRing g s) = withRing g (txAccept k s) := rfl

/-- No register of the REG map shows a slot byte (30_encoding R74). -/
theorem readReg_withRing (h : RingAgree s.ring g) (idx : BitVec 8) : readReg idx (withRing g s) = readReg idx s := by
  simp only [readReg, statusWord, withRing, h.w, h.r, h.lostPending, h.drops, h.ringCount]

/-- ASSEMBLE takes the same capture and writes the same packet (43_framer R123). -/
theorem assembleTake_withRing (h : RingAgree s.ring g) :
    assembleTake (withRing g s) = withRing { (ringTakeOp g).2 with lostPending := false } (assembleTake s) := by
  simp only [assembleTake, withRing, h.take_fst, h.lostPending]
  cases (ringTakeOp s.ring).1 <;> rfl

/-! ### The instructions with a case of their own -/

theorem execCtlSetRole_sameStep (h : RingAgree s.ring g) (role : Role) (pull : BitVec 2) :
    SameStep (execCtlSetRole role pull s) (execCtlSetRole role pull (withRing g s)) :=
  .ite (sameStep_next (g := g) h) (sameStep_next (g := g) h)

theorem execCtlRead_sameStep (h : RingAgree s.ring g) (idx : BitVec 8) :
    SameStep (execCtlRead idx s) (execCtlRead idx (withRing g s)) := by
  unfold execCtlRead
  rw [readReg_withRing h]
  cases readReg idx s <;> exact sameStep_next (g := g) h

theorem execCapByte_sameStep (h : RingAgree s.ring g) (b : Byte) :
    SameStep (execCapByte b s) (execCapByte b (withRing g s)) :=
  .ite (sameStep_next (g := g) h) (sameStep_next (g := g) h)

theorem Inv.slot_wf (h : Inv s) : (getSlot s.ring s.ring.w).data.wf = true := by
  obtain ⟨-, hw, -, hall⟩ := h.ring
  obtain ⟨-, hwf, -⟩ := hall _ (getSlot_mem hw)
  exact hwf

theorem producerEvent_sameStep (hs : Inv s) (hs' : Inv (withRing g s)) (h : RingAgree s.ring g) (ty : BitVec 8)
    (part signal : Bool) : SameStep (producerEvent ty part signal s) (producerEvent ty part signal (withRing g s)) := by
  rw [producerEvent_eq, producerEvent_eq]
  exact .ite (sameStep_fault _) (sameStep_next (h.put hs.slot_wf hs'.slot_wf s.telem.active ty part _))

theorem putCapture_sameStep (hs : Inv s) (hs' : Inv (withRing g s)) (h : RingAgree s.ring g) (line : Line)
    (ty : BitVec 8) (part : Bool) (data : List Byte) :
    SameStep (putCapture line ty part data s) (putCapture line ty part data (withRing g s)) := by
  rw [putCapture_eq, putCapture_eq]
  exact .ite (sameStep_fault _) (sameStep_next (h.put hs.slot_wf hs'.slot_wf line ty part data))

theorem execRingTake_sameStep (h : RingAgree s.ring g) : SameStep (execRingTake s) (execRingTake (withRing g s)) := by
  simp only [execRingTake, withRing, h.take_fst]
  exact sameStep_next h.take_snd

theorem execPhaseStopped_sameStep (h : RingAgree s.ring g) :
    SameStep (execPhaseStopped s) (execPhaseStopped (withRing g s)) :=
  .ite (sameStep_next (g := g) h) (sameStep_next (g := g) h)

theorem execPhaseCycleStart_sameStep (h : RingAgree s.ring g) :
    SameStep (execPhaseCycleStart s) (execPhaseCycleStart (withRing g s)) := by
  have hstart : startCycle (withRing g s) = withRing g (startCycle s) := by
    simp only [startCycle, withRing, h.w, h.r]
    rfl
  unfold execPhaseCycleStart
  rw [hstart]
  exact .ite (sameStep_next (g := g) h) (sameStep_next (g := g) h)

theorem execPhaseTelem_sameStep (h : RingAgree s.ring g) :
    SameStep (execPhaseTelem s) (execPhaseTelem (withRing g s)) := by
  have hring : RingAgree (drawChannels s).2.ring g := by rwa [drawChannels_ring]
  simp only [execPhaseTelem, drawChannels_withRing]
  cases withinContract (drawChannels s).1 with
  | none => exact sameStep_fault _
  | some ans => exact sameStep_next (g := g) hring

theorem execPhaseAssemble_sameStep (h : RingAgree s.ring g) :
    SameStep (execPhaseAssemble s) (execPhaseAssemble (withRing g s)) := by
  have htake := h.take_snd
  have hring : RingAgree (assembleTake s).ring { (ringTakeOp g).2 with lostPending := false } := by
    rw [assembleTake_ring]
    exact ⟨htake.w, htake.r, rfl, htake.drops, htake.slots⟩
  unfold execPhaseAssemble
  rw [assembleTake_withRing h]
  exact .ite (sameStep_next hring) (sameStep_next (g := g) h)

theorem execPhaseTxDecide_sameStep (h : RingAgree s.ring g) :
    SameStep (execPhaseTxDecide s) (execPhaseTxDecide (withRing g s)) :=
  .ite (sameStep_next (g := g) h) (sameStep_next (g := g) h)

theorem execPhaseTxWrite_sameStep (h : RingAgree s.ring g) :
    SameStep (execPhaseTxWrite s) (execPhaseTxWrite (withRing g s)) := by
  unfold execPhaseTxWrite
  simp only [drawTx_withRing, txStall_withRing, txAccept_withRing, ← apply_ite (withRing g)]
  refine .ite (sameStep_fault _) (sameStep_next ?_)
  split
  · rwa [txStall_ring, drawTx_ring]
  · rwa [txAccept_ring, drawTx_ring]

/-! ### Every instruction, every step -/

/-- Each instruction ends alike from two states that differ only in unread slot bytes. -/
theorem exec_sameStep (hs : Inv s) (hs' : Inv (withRing g s)) (h : RingAgree s.ring g) (i : Instr) :
    SameStep (exec i s) (exec i (withRing g s)) := by
  cases i with
  | ctlStart run => cases run <;> exact sameStep_next (g := g) h
  | ctlReset => exact sameStep_next h.clear
  | ctlSetLine sel => exact sameStep_next (g := g) h
  | ctlSetRole role pull => exact execCtlSetRole_sameStep h role pull
  | ctlSetOutmode onCapture => exact sameStep_next (g := g) h
  | ctlSetAutostop on => exact sameStep_next (g := g) h
  | ctlSetIdle us => exact sameStep_next (g := g) h
  | ctlRead idx => exact execCtlRead_sameStep h idx
  | capByte b => exact execCapByte_sameStep h b
  | evRxComplete ty => exact producerEvent_sameStep hs hs' h ty false true
  | evRxError ty => exact producerEvent_sameStep hs hs' h ty true false
  | ringPut line ty part data => exact putCapture_sameStep hs hs' h line ty part data
  | ringTake => exact execRingTake_sameStep h
  | crcInit => exact sameStep_next (g := g) h
  | crcHash data => exact sameStep_next (g := g) h
  | crcResult => exact sameStep_next (g := g) h
  | phaseStopped => exact execPhaseStopped_sameStep h
  | phaseCycleStart => exact execPhaseCycleStart_sameStep h
  | phaseTelem => exact execPhaseTelem_sameStep h
  | phaseAssemble => exact execPhaseAssemble_sameStep h
  | phaseSeal => exact sameStep_next (g := g) h
  | phaseTxDecide => exact execPhaseTxDecide_sameStep h
  | phaseTxWrite => exact execPhaseTxWrite_sameStep h
  | phaseTxSleep => exact sameStep_next (g := g) h
  | phaseClear => exact sameStep_next (g := g) h
  | phaseIdleSleep => exact sameStep_next (g := g) h

/-- Settles O41: both states take the same turn, and what it asks for ends alike (`exec_sameStep`). -/
theorem unreadSlotBytesAreInvisible : Obligations.UnreadSlotBytesAreInvisible := by
  intro s s' hs hs' hsame
  obtain ⟨g, hring, rfl⟩ := sameButUnreadBytes_iff.1 hsame
  have hturn : RingAgree (afterTurn s).ring g := by rwa [afterTurn_ring]
  have hafter' : Inv (withRing g (afterTurn s)) := afterTurn_withRing g s ▸ inv_afterTurn hs'
  have hexec := exec_sameStep (inv_afterTurn hs) hafter' hturn
  have hnext : nextTurn (withRing g s) = nextTurn s := rfl
  have hphase : (withRing g s).framer.phase = s.framer.phase := rfl
  show SameStep (step s) (step (withRing g s))
  rw [step_eq, step_eq, hnext, hphase, afterTurn_withRing]
  cases nextTurn s with
  | agent a =>
    cases a with
    | control w =>
      dsimp only
      cases decodeAt .control w [] with
      | ok i => exact hexec i
      | error e => exact sameStep_next (g := g) hturn
    | capture w =>
      dsimp only
      cases decodeAt .capture w [] with
      | ok i => exact hexec i
      | error e => exact sameStep_next hturn
    | framer =>
      dsimp only
      cases decodePhase s.framer.phase with
      | some i => exact hexec i
      | none => exact sameStep_fault .badPhase
  | internal w d =>
    dsimp only
    cases decodeAt .internal w d with
    | ok i => exact hexec i
    | error e => exact sameStep_fault .badInternalOp

end Sys2Proof.Machine
end

/-! ## The transmission of a packet -/

section
namespace Sys2Proof.Machine

/-! ### Byte streams and runs -/

/-- A read in two parts. -/
theorem memRead_add (m : Memory) (addr n n' : Nat) :
    memRead m addr (n + n') = memRead m addr n ++ memRead m (addr + n) n' := by
  induction n generalizing addr with
  | zero => simp [memRead]
  | succ n ih =>
    have haddr : addr + (n + 1) = addr + 1 + n := by omega
    rw [Nat.succ_add, memRead, memRead, ih, haddr, List.cons_append]

/-- What an accepted write adds to the byte stream (10_state R37). -/
theorem deliveredBytes_append_txBytes (out : List Event) (bs : List Byte) :
    deliveredBytes (out ++ [.txBytes bs]) = deliveredBytes out ++ bs := by
  induction out with
  | nil => simp [deliveredBytes]
  | cons e out ih =>
    cases e with
    | txBytes b => simp only [List.cons_append, deliveredBytes, ih, List.append_assoc]
    | _ => exact ih

/-- A run is its first step and the run from there. -/
theorem runSteps_succ {s t : State} (h : step s = .next t) (n : Nat) : runSteps (n + 1) s = runSteps n t := by
  rw [runSteps, h]

/-- A listed framer turn runs the phase that the phase register names (30_encoding R76). -/
theorem step_framer {s : State} {ts : List Turn} {i : Instr} (hturns : s.env.turns = .agent .framer :: ts)
    (hphase : decodePhase s.framer.phase = some i) : step s = exec i (afterTurn s) := by
  have hnext : nextTurn s = .agent .framer := by simp only [nextTurn, hturns]
  simp only [step_eq, hnext, hphase]

/-! ### What the steps of a transmission do -/

/-- What lies between two states of one transmission in which n bytes were accepted and z writes stalled, without an
auto-stop (43_framer R126, R128). -/
structure TxProgress (n z : Nat) (s t : State) : Prop where
  params : t.params = s.params
  pkt : t.pkt = s.pkt
  ring : t.ring = s.ring
  cfg : t.cfg = s.cfg
  aborted : t.framer.aborted = s.framer.aborted
  txOff : t.framer.txOff = s.framer.txOff + n
  stall : t.framer.stall.toNat = min (s.framer.stall.toNat + z) (2 ^ 32 - 1)
  delivered : deliveredBytes t.out = deliveredBytes s.out ++ memRead s.pkt s.framer.txOff n

theorem TxProgress.trans {n z n' z' : Nat} {s t u : State} (h : TxProgress n z s t) (h' : TxProgress n' z' t u) :
    TxProgress (n + n') (z + z') s u where
  params := h'.params.trans h.params
  pkt := h'.pkt.trans h.pkt
  ring := h'.ring.trans h.ring
  cfg := h'.cfg.trans h.cfg
  aborted := h'.aborted.trans h.aborted
  txOff := by rw [h'.txOff, h.txOff, Nat.add_assoc]
  stall := by
    rw [h'.stall, h.stall]
    omega
  delivered := by rw [h'.delivered, h.delivered, h.pkt, h.txOff, memRead_add, List.append_assoc]

theorem txAccept_framer (k : Nat) (s : State) :
    (txAccept k s).framer
      = { s.framer with
          txOff := s.framer.txOff + k
          phase := if s.framer.txOff + k = s.params.pktLen then phClear else phTxWrite } := rfl

/-- A listed answer is the transport's next one (43_framer R126). -/
theorem drawTx_afterTurn {s : State} {k : Nat} {xs : List Nat} (hanswers : s.env.txIn = k :: xs) :
    drawTx (afterTurn s)
      = (k, { afterTurn s with env := { (afterTurn s).env with txIn := xs } }) := by
  have hlisted : (afterTurn s).env.txIn = k :: xs := by rw [afterTurn_txIn, hanswers]
  simp only [drawTx, hlisted]

/-- TX_WRITE with a listed answer within what is offered (43_framer R126). -/
theorem step_txWrite {s : State} {k : Nat} {ts : List Turn} {xs : List Nat} (hphase : s.framer.phase = phTxWrite)
    (hk : s.framer.txOff + k ≤ s.params.pktLen) (hturns : s.env.turns = .agent .framer :: ts)
    (hanswers : s.env.txIn = k :: xs) :
    step s = .next (if k = 0 then txStall (drawTx (afterTurn s)).2 else txAccept k (drawTx (afterTurn s)).2) := by
  have hdraw := drawTx_afterTurn hanswers
  have hwithin : ¬ txOverrun (afterTurn s) = true := by
    rw [txOverrun_iff, txAnswer, hdraw, offered, afterTurn_params, afterTurn_framer]
    omega
  rw [step_framer (i := .phaseTxWrite) hturns (by rw [hphase]; rfl)]
  simp only [exec, execPhaseTxWrite, if_neg hwithin, hdraw]

/-- An accepted write delivers its bytes; it ends the transmission when it reaches PKT_LEN (43_framer R126). -/
theorem step_accept {s : State} {k : Nat} {ts : List Turn} {xs : List Nat} (hphase : s.framer.phase = phTxWrite)
    (hpos : k ≠ 0) (hk : s.framer.txOff + k ≤ s.params.pktLen) (hturns : s.env.turns = .agent .framer :: ts)
    (hanswers : s.env.txIn = k :: xs) :
    ∃ t, step s = .next t ∧ TxProgress k 0 s t
      ∧ t.framer.phase = (if s.framer.txOff + k = s.params.pktLen then phClear else phTxWrite)
      ∧ t.env.turns = ts ∧ t.env.txIn = xs := by
  have hstall := s.framer.stall.isLt
  refine ⟨_, step_txWrite hphase hk hturns hanswers, ?_⟩
  rw [if_neg hpos, drawTx_afterTurn hanswers]
  refine ⟨⟨by simp, by simp, by simp, by simp, ?_, ?_, ?_, by simp [deliveredBytes_append_txBytes]⟩, ?_,
    by simp [hturns], by simp⟩
  all_goals simp only [txAccept_framer, afterTurn_framer, afterTurn_params]
  omega

/-- A stall within the threshold, or with auto-stop off, aborts nothing (43_framer R126). -/
theorem txStall_eq_of_patience {s : State}
    (h : s.framer.stall.toNat + 1 ≤ s.params.stallMax ∨ s.cfg.autostop = false) :
    txStall s = { s with framer := { s.framer with stall := satInc s.framer.stall, phase := phTxSleep } } := by
  have hsat := satInc_toNat s.framer.stall
  refine if_neg ?_
  rintro ⟨hover, hauto⟩
  rcases h with hle | hmanual
  · omega
  · exact Bool.noConfusion (hmanual.symm.trans hauto)

/-- A write that stalls short of an auto-stop leads to the sleep (43_framer R126). -/
theorem step_stall {s : State} {ts : List Turn} {xs : List Nat} (hphase : s.framer.phase = phTxWrite)
    (hoff : s.framer.txOff ≤ s.params.pktLen)
    (hpatient : s.framer.stall.toNat + 1 ≤ s.params.stallMax ∨ s.cfg.autostop = false)
    (hturns : s.env.turns = .agent .framer :: ts) (hanswers : s.env.txIn = 0 :: xs) :
    ∃ t, step s = .next t ∧ TxProgress 0 1 s t ∧ t.framer.phase = phTxSleep ∧ t.env.turns = ts
      ∧ t.env.txIn = xs := by
  refine ⟨_, step_txWrite hphase hoff hturns hanswers, ?_⟩
  rw [if_pos rfl, drawTx_afterTurn hanswers, txStall_eq_of_patience (by simpa using hpatient)]
  refine ⟨⟨by simp, by simp, by simp, by simp, by simp, by simp, ?_, by simp [memRead]⟩, rfl, by simp [hturns],
    rfl⟩
  simp only [afterTurn_framer, satInc_toNat]

/-- After the sleep the same bytes are offered again (43_framer R128). -/
theorem step_txSleep {s : State} {ts : List Turn} (hphase : s.framer.phase = phTxSleep)
    (hturns : s.env.turns = .agent .framer :: ts) :
    ∃ t, step s = .next t ∧ TxProgress 0 0 s t ∧ t.framer.phase = phTxWrite ∧ t.env.turns = ts
      ∧ t.env.txIn = s.env.txIn := by
  have hstall := s.framer.stall.isLt
  refine ⟨_, step_framer (i := .phaseTxSleep) hturns (by rw [hphase]; rfl), ?_⟩
  refine ⟨⟨by simp, by simp, by simp, by simp, by simp, by simp, ?_, by simp [memRead]⟩, rfl, by simp [hturns],
    by simp⟩
  simp only [endSleep_framer, afterTurn_framer]
  omega

/-! ### A whole packet -/

/-- A state in TX_WRITE from where the answers `ks` complete the packet with the last of them, their stalls short of an
auto-stop, and where these answers and a turn for each write and each sleep come next. -/
structure Sending (ks : List Nat) (ts : List Turn) (xs : List Nat) (s : State) : Prop where
  phase : s.framer.phase = phTxWrite
  total : s.framer.txOff + ks.sum = s.params.pktLen
  unfinished : s.framer.txOff + ks.dropLast.sum < s.params.pktLen
  patience : s.framer.stall.toNat + ks.count 0 ≤ s.params.stallMax ∨ s.cfg.autostop = false
  turns : s.env.turns = List.replicate (ks.length + ks.count 0) (.agent .framer) ++ ts
  answers : s.env.txIn = ks ++ xs

/-- Once the first answer is dealt with, the rest of them complete the packet. -/
theorem Sending.rest {k z : Nat} {ks : List Nat} {ts : List Turn} {xs : List Nat} {s t : State}
    (h : Sending (k :: ks) ts xs s) (hne : ks ≠ []) (hz : (k :: ks).count 0 = ks.count 0 + z)
    (hprogress : TxProgress k z s t) (hphase : t.framer.phase = phTxWrite)
    (hturns : t.env.turns = List.replicate (ks.length + ks.count 0) (.agent .framer) ++ ts)
    (hanswers : t.env.txIn = ks ++ xs) : Sending ks ts xs t where
  phase := hphase
  total := by
    have htotal := h.total
    rw [List.sum_cons] at htotal
    rw [hprogress.txOff, hprogress.params, Nat.add_assoc, htotal]
  unfinished := by
    have hunfinished := h.unfinished
    rw [List.dropLast_cons_of_ne_nil hne, List.sum_cons] at hunfinished
    rwa [hprogress.txOff, hprogress.params, Nat.add_assoc]
  patience := by
    have hpatience := h.patience
    have hstall := hprogress.stall
    rw [hprogress.params, hprogress.cfg]
    rw [hz] at hpatience
    exact hpatience.imp_left fun hle => by omega
  turns := hturns
  answers := hanswers

/-- A stall is not the last answer. -/
theorem Sending.rest_ne_nil {ks : List Nat} {ts : List Turn} {xs : List Nat} {s : State}
    (h : Sending (0 :: ks) ts xs s) : ks ≠ [] := by
  rintro rfl
  have htotal := h.total
  have hunfinished := h.unfinished
  simp only [List.sum_cons, List.sum_nil, List.dropLast_singleton] at htotal hunfinished
  omega

/-- The transmission ends in CLEAR with the packet delivered, by induction on the answers: a zero is a stall and a
sleep, any other answer an accepted write, after the last of which nothing is left to send. -/
theorem Sending.completes {ks : List Nat} {ts : List Turn} {xs : List Nat} {s : State} (h : Sending ks ts xs s) :
    ∃ t, runSteps (ks.length + ks.count 0) s = .next t ∧ TxProgress ks.sum (ks.count 0) s t
      ∧ t.framer.phase = phClear ∧ t.env.turns = ts ∧ t.env.txIn = xs := by
  induction ks generalizing s with
  | nil =>
    have htotal := h.total
    have hunfinished := h.unfinished
    simp only [List.sum_nil, List.dropLast_nil] at htotal hunfinished
    omega
  | cons k ks ih =>
    have htotal := h.total
    rw [List.sum_cons] at htotal
    by_cases hk : k = 0
    · subst hk
      have hne : ks ≠ [] := h.rest_ne_nil
      have hz : (0 :: ks).count 0 = ks.count 0 + 1 := List.count_cons_self
      have hlen : (0 :: ks).length + (0 :: ks).count 0 = ks.length + ks.count 0 + 1 + 1 := by
        rw [hz, List.length_cons]; omega
      have hturns := h.turns
      rw [hlen, List.replicate_succ, List.replicate_succ] at hturns
      obtain ⟨u, hwrite, hstalled, hsleep, huturns, hutx⟩ := step_stall h.phase (by omega)
        (h.patience.imp_left fun hle => by omega) hturns h.answers
      obtain ⟨v, hwake, hslept, hagain, hvturns, hvtx⟩ := step_txSleep hsleep huturns
      obtain ⟨t, hrun, hrest, hend⟩ :=
        ih (h.rest hne hz (hstalled.trans hslept) hagain hvturns (hvtx.trans hutx))
      refine ⟨t, ?_, ?_, hend⟩
      · rw [hlen, runSteps_succ hwrite, runSteps_succ hwake, hrun]
      · rw [List.sum_cons, hz, Nat.add_comm (ks.count 0)]
        exact (hstalled.trans hslept).trans hrest
    · have hz : (k :: ks).count 0 = ks.count 0 := List.count_cons_of_ne hk
      have hlen : (k :: ks).length + (k :: ks).count 0 = ks.length + ks.count 0 + 1 := by
        rw [hz, List.length_cons]; omega
      have hturns := h.turns
      rw [hlen, List.replicate_succ] at hturns
      obtain ⟨u, hwrite, haccepted, hphase, huturns, hutx⟩ := step_accept h.phase hk (by omega) hturns h.answers
      rw [hlen, runSteps_succ hwrite, List.sum_cons, hz]
      by_cases hne : ks = []
      · subst hne
        rw [if_pos (by simpa using htotal)] at hphase
        exact ⟨u, rfl, haccepted, hphase, huturns, hutx⟩
      · have hunfinished := h.unfinished
        rw [List.dropLast_cons_of_ne_nil hne, List.sum_cons] at hunfinished
        rw [if_neg (by omega)] at hphase
        obtain ⟨t, hrun, hrest, hend⟩ := ih (h.rest hne hz haccepted hphase huturns hutx)
        refine ⟨t, hrun, ?_, hend⟩
        have hboth := haccepted.trans hrest
        rwa [Nat.zero_add] at hboth

/-- Settles O57: a transmission from its start is one that completes (`Sending.completes`). -/
theorem chunkedWritesDeliverThePacketWhole : Obligations.ChunkedWritesDeliverThePacketWhole := by
  intro s ks ts xs hphase hoff hstall htotal hunfinished hpatience hturns hanswers
  have hsending : Sending ks ts xs s :=
    ⟨hphase, by rw [hoff, Nat.zero_add, htotal], by rwa [hoff, Nat.zero_add], by simpa [hstall] using hpatience,
      hturns, hanswers⟩
  obtain ⟨t, hrun, hprogress, hclear, hend⟩ := hsending.completes
  refine ⟨t, hrun, hclear, ?_, ?_, ?_, hprogress.pkt, hprogress.ring, hprogress.cfg, hprogress.aborted, hend⟩
  · rw [hprogress.txOff, hoff, Nat.zero_add, htotal]
  · rw [hprogress.delivered, hoff, htotal]
  · rw [hprogress.stall, hstall]
    simp

end Sys2Proof.Machine
end

/-! ## What a step hands to the transport -/

section
namespace Sys2Proof.Machine

/-! ### Slices and fields of the packet buffer -/

/-- A read inside a longer one from the start is a slice of it. -/
theorem memRead_eq_slice (m : Memory) {off k n : Nat} (h : off + k ≤ n) :
    memRead m off k = ((memRead m 0 n).drop off).take k := by
  obtain ⟨rest, rfl⟩ := Nat.exists_eq_add_of_le h
  rw [memRead_add, memRead_add, Nat.zero_add, List.append_assoc, List.drop_left' (memRead_length ..),
    List.take_left' (memRead_length ..)]

/-- The length field is the two bytes at its offset, the low one first (20_memory R46). -/
theorem payloadLen_eq_bytes (m : Memory) :
    payloadLen m = (readByte m 16).toNat + 256 * (readByte m 17).toNat := by
  have hlow := (readByte m 16).isLt
  rw [payloadLen, readHalf, offLen, BitVec.toNat_append, ← Nat.shiftLeft_add_eq_or_of_lt hlow, Nat.shiftLeft_eq,
    Nat.add_comm, Nat.mul_comm]

/-! ### Only an accepted write hands over bytes -/

/-- Only the framer's steps hand bytes to the transport (60_exceptions R190). -/
theorem Emits.out_ne_txBytes {who : Issuer} {s t : State} (h : Emits who s t) (hwho : who ≠ .framer)
    (bs : List Byte) : t.out ≠ s.out ++ [.txBytes bs] := by
  intro hbytes
  obtain ⟨es, hout, hes⟩ := h
  have hnew : es = [.txBytes bs] := List.append_cancel_left (hout.symm.trans hbytes)
  have hmay : mayEmit who (.txBytes bs) := hes _ (hnew ▸ List.mem_singleton_self _)
  cases who with
  | host => rcases hmay with h | h | h <;> cases h
  | captureHardware => cases hmay
  | ownUnit => exact hmay
  | framer => exact hwho rfl

/-- A phase other than TX_WRITE emits nothing (43_framer R120 to R129). -/
theorem exec_phase_out {i : Instr} (hi : issuer i = .framer) (hwrite : i ≠ .phaseTxWrite) (s : State) :
    OnNext (fun t => t.out = s.out) (exec i s) := by
  cases i with
  | phaseStopped =>
    simp only [exec, execPhaseStopped]
    split <;> exact onNext_next.2 rfl
  | phaseCycleStart =>
    simp only [exec, execPhaseCycleStart]
    split <;> exact onNext_next.2 rfl
  | phaseTelem => exact execPhaseTelem_onNext fun _ => drawChannels_out s
  | phaseAssemble =>
    simp only [exec, execPhaseAssemble]
    split
    · exact onNext_next.2 (assembleTake_out s)
    · exact onNext_next.2 rfl
  | phaseSeal => exact onNext_next.2 rfl
  | phaseTxDecide =>
    simp only [exec, execPhaseTxDecide]
    split <;> exact onNext_next.2 rfl
  | phaseTxWrite => exact absurd rfl hwrite
  | phaseTxSleep => exact onNext_next.2 rfl
  | phaseClear => exact onNext_next.2 rfl
  | phaseIdleSleep => exact onNext_next.2 rfl
  | _ => cases hi

/-- No instruction but TX_WRITE hands bytes to the transport. -/
theorem exec_out_ne_txBytes {i : Instr} (hi : i ≠ .phaseTxWrite) (s : State) (bs : List Byte) :
    OnNext (fun t => t.out ≠ s.out ++ [.txBytes bs]) (exec i s) := by
  intro t ht
  by_cases hwho : issuer i = .framer
  · rw [exec_phase_out hwho hi s t ht]
    simp
  · exact (exec_emits i s t ht).out_ne_txBytes hwho bs

/-- What lies between two states where the transport accepted `bs` of what was offered (43_framer R126). -/
structure Transmitted (bs : List Byte) (s t : State) : Prop where
  phase : s.framer.phase = phTxWrite
  bytes : bs = memRead s.pkt s.framer.txOff bs.length
  pos : 0 < bs.length
  within : bs.length ≤ offered s
  txOff : t.framer.txOff = s.framer.txOff + bs.length
  pkt : t.pkt = s.pkt

/-- TX_WRITE hands over bytes only if the transport accepts some, and then those at the transmit offset. -/
theorem execPhaseTxWrite_transmitted {s : State} (hphase : s.framer.phase = phTxWrite) (bs : List Byte) :
    OnNext (fun t => t.out = s.out ++ [.txBytes bs] → Transmitted bs s t) (execPhaseTxWrite s) := by
  unfold execPhaseTxWrite
  split
  · exact onNext_raise _ _
  · next hover =>
    have hle : txAnswer s ≤ offered s := Nat.le_of_not_lt fun hlt => hover ((txOverrun_iff s).2 hlt)
    rw [onNext_next]
    split
    · simp
    · next hpos =>
      intro hout
      have hbytes : bs = memRead s.pkt s.framer.txOff (txAnswer s) := by
        simpa [txAnswer, eq_comm] using hout
      have hlen : bs.length = txAnswer s := by rw [hbytes, memRead_length]
      exact {
        phase := hphase
        bytes := by rw [hlen, ← hbytes]
        pos := by rw [hlen]; exact Nat.pos_of_ne_zero hpos
        within := by rwa [hlen]
        txOff := by rw [hlen, txAccept_framer, drawTx_framer]; rfl
        pkt := by rw [txAccept_pkt, drawTx_pkt] }

/-- Bytes that an instruction hands to the transport are those of an accepted write. -/
theorem exec_transmitted {i : Instr} {s : State} (hphase : PhaseIs s i) (bs : List Byte) :
    OnNext (fun t => t.out = s.out ++ [.txBytes bs] → Transmitted bs s t) (exec i s) := by
  by_cases hi : i = .phaseTxWrite
  · subst hi
    exact execPhaseTxWrite_transmitted (hphase _ rfl) bs
  · exact fun t ht hout => absurd hout (exec_out_ne_txBytes hi s bs t ht)

/-- Taking the turn changes nothing that a transmission reads. -/
theorem Transmitted.of_afterTurn {bs : List Byte} {s t : State} (h : Transmitted bs (afterTurn s) t) :
    Transmitted bs s t := by
  obtain ⟨hphase, hbytes, hpos, hwithin, hoff, hpkt⟩ := h
  simp only [offered, afterTurn_framer, afterTurn_pkt, afterTurn_params] at hphase hbytes hwithin hoff hpkt
  exact ⟨hphase, hbytes, hpos, hwithin, hoff, hpkt⟩

/-- Bytes that a step hands to the transport are those of an accepted write (43_framer R126). -/
theorem step_transmitted (s : State) (bs : List Byte) :
    OnNext (fun t => t.out = s.out ++ [.txBytes bs] → Transmitted bs s t) (step s) := by
  refine step_onNext (fun i hphase t ht hout => ?_) (fun e => ?_) ?_
  · exact (exec_transmitted hphase bs t ht (by rwa [afterTurn_out])).of_afterTurn
  · simp
  · simp

/-- Settles O58: only an accepted write hands over bytes (`step_transmitted`), in a phase in which the invariant says
that the packet is sealed. -/
theorem transmittedBytesAreOfASealedPacket : Obligations.TransmittedBytesAreOfASealedPacket := by
  intro s t bs hinv hstep hout
  have hsent : Transmitted bs s t := step_transmitted s bs t hstep hout
  have hend : s.framer.txOff + bs.length ≤ s.params.pktLen :=
    Nat.add_le_of_le_sub' hinv.txOff_le hsent.within
  have hsealed : pktSealed s.params s.pkt := hinv.isSealed (by rw [hsent.phase]; rfl)
  obtain ⟨-, -, hres0, hres1, -, hzero⟩ := hinv.pkt
  refine ⟨?_, hsent.txOff, hsent.txOff.trans_le hend, hsent.pos, hsent.pkt, hsealed, ?_, fun a hlo hhi => ?_⟩
  · exact hsent.bytes.trans (memRead_eq_slice s.pkt hend)
  · show [readByte s.pkt offReserved, readByte s.pkt (offReserved + 1)] = _
    rw [hres0, hres1]
  · refine hzero a ?_ hhi
    rwa [payloadLen_eq_bytes, ← Nat.add_assoc]

end Sys2Proof.Machine
end

/-! ## Encoding: the opcode map and what the decoder does with a word -/

section
namespace Sys2Proof.Machine

/-- The row of an operation in the opcode map (30_encoding R69): each has one, so the default is never taken. -/
def rowOfOp (op : Op) : OpRow := (opTable.find? (·.op == op)).getD ⟨op, 0#8, .control, 0#32⟩

@[simp] theorem rowOfOp_op (op : Op) : (rowOfOp op).op = op := by cases op <;> rfl

/-- The opcode map has no other rows. -/
theorem eq_rowOfOp {row : OpRow} (h : row ∈ opTable) : row = rowOfOp row.op := by fin_cases h <;> rfl

/-- The opcode byte of an operation selects its row (30_encoding R68). -/
theorem rowOf_of_opcode {w : Word} {op : Op} (h : opcodeOf w = (rowOfOp op).opcode) : rowOf w = some (rowOfOp op) := by
  unfold rowOf
  rw [h]
  cases op <;> rfl

/-- A word selects the row of an operation whose opcode byte it carries. -/
theorem exists_op_of_rowOf {w : Word} {row : OpRow} (h : rowOf w = some row) :
    ∃ op, row = rowOfOp op ∧ opcodeOf w = (rowOfOp op).opcode := by
  have hrow : row = rowOfOp row.op := eq_rowOfOp (List.mem_of_find?_eq_some h)
  unfold rowOf at h
  have hop : row.opcode = opcodeOf w := by simpa using List.find?_some h
  exact ⟨row.op, hrow, by rw [← hrow, hop]⟩

/-- The decoder on a word with the opcode byte of an operation: the port, the reserved bits and the pull strength of a
sink are checked in this order (30_encoding R71, 60_exceptions R183). -/
theorem decodeAt_of_opcode {w : Word} {op : Op} (h : opcodeOf w = (rowOfOp op).opcode) (p : Port) (d : List Byte) :
    decodeAt p w d =
      if (rowOfOp op).port ≠ p then .error .illegalOpcode
      else if w &&& (rowOfOp op).reserved ≠ 0#32 then .error .reservedField
      else if sinkWithPull (operands op w d) then .error .reservedField
      else .ok (operands op w d) := by
  unfold decodeAt
  rw [rowOf_of_opcode h]
  simp only [rowOfOp_op]

/-- The decoder on a word with the opcode byte of no operation. -/
theorem decodeAt_of_no_opcode {w : Word} (h : ∀ op, opcodeOf w ≠ (rowOfOp op).opcode) (p : Port) (d : List Byte) :
    decodeAt p w d = .error .illegalOpcode := by
  unfold decodeAt
  split
  · rfl
  · next row hrow =>
    obtain ⟨op, -, hop⟩ := exists_op_of_rowOf hrow
    exact absurd hop (h op)

/-- A word decodes to an instruction exactly when it carries the opcode byte of an operation of the port, its reserved
bits are 0, and its fields, which are that instruction's, give a sink no pull strength. -/
theorem decodeAt_eq_ok_iff {p : Port} {w : Word} {d : List Byte} {i : Instr} :
    decodeAt p w d = .ok i ↔
      ∃ op, opcodeOf w = (rowOfOp op).opcode ∧ (rowOfOp op).port = p ∧ w &&& (rowOfOp op).reserved = 0#32
        ∧ operands op w d = i ∧ sinkWithPull i = false := by
  constructor
  · intro h
    by_cases hex : ∃ op, opcodeOf w = (rowOfOp op).opcode
    · obtain ⟨op, hop⟩ := hex
      rw [decodeAt_of_opcode hop] at h
      split_ifs at h with hport hres hsink
      cases h
      exact ⟨op, hop, not_not.1 hport, not_not.1 hres, rfl, Bool.eq_false_of_not_eq_true hsink⟩
    · rw [decodeAt_of_no_opcode (not_exists.1 hex)] at h
      cases h
  · rintro ⟨op, hop, rfl, hres, rfl, hsink⟩
    rw [decodeAt_of_opcode hop, if_neg (not_not.2 rfl), if_neg (not_not.2 hres), hsink]
    rfl

/-- A word is of an illegal opcode exactly when its opcode byte is that of no operation of the port. -/
theorem decodeAt_eq_illegalOpcode_iff {p : Port} {w : Word} {d : List Byte} :
    decodeAt p w d = .error .illegalOpcode ↔
      ∀ op, opcodeOf w = (rowOfOp op).opcode → (rowOfOp op).port ≠ p := by
  constructor
  · intro h op hop hport
    rw [decodeAt_of_opcode hop, if_neg (not_not.2 hport)] at h
    split_ifs at h <;> cases h
  · intro h
    by_cases hex : ∃ op, opcodeOf w = (rowOfOp op).opcode
    · obtain ⟨op, hop⟩ := hex
      rw [decodeAt_of_opcode hop, if_pos (h op hop)]
    · exact decodeAt_of_no_opcode (not_exists.1 hex) p d

/-- A word of the port with a reserved bit set does not decode. -/
theorem decodeAt_of_reserved {w : Word} {op : Op} (hop : opcodeOf w = (rowOfOp op).opcode)
    (hres : w &&& (rowOfOp op).reserved ≠ 0#32) (d : List Byte) :
    decodeAt (rowOfOp op).port w d = .error .reservedField := by
  rw [decodeAt_of_opcode hop, if_neg (not_not.2 rfl), if_pos hres]

end Sys2Proof.Machine
end

/-! ## Encoding: the fields of a word -/

section
namespace Sys2Proof.Machine

/-! ### Fields of an encoded word -/

/-- A field of an encoded word above its opcode byte is a field of its operand (30_encoding R64). -/
theorem extractLsb'_wordOf (operand : BitVec 24) (opcode : BitVec 8) (k len : Nat) :
    (wordOf operand opcode).extractLsb' (k + 8) len = operand.extractLsb' k len := by
  rw [wordOf, BitVec.extractLsb'_append_eq_of_le (Nat.le_add_left 8 k), Nat.add_sub_cancel]

/-- A field above the low part of two joined fields is one of the high part. -/
theorem extractLsb'_append_high {n m : Nat} (x : BitVec n) (y : BitVec m) (k len : Nat) :
    (x ++ y).extractLsb' (k + m) len = x.extractLsb' k len := by
  rw [BitVec.extractLsb'_append_eq_of_le (Nat.le_add_left m k), Nat.add_sub_cancel]

/-- A bit above the low part of two joined fields is one of the high part. -/
theorem getLsbD_append_high {n m : Nat} (x : BitVec n) (y : BitVec m) (k : Nat) :
    (x ++ y).getLsbD (k + m) = x.getLsbD k := by
  rw [BitVec.getLsbD_append, if_neg (by omega), Nat.add_sub_cancel]

/-- A bit of the low part of two joined fields. -/
theorem getLsbD_append_low {n m : Nat} (x : BitVec n) (y : BitVec m) {k : Nat} (h : k < m) :
    (x ++ y).getLsbD k = y.getLsbD k := by
  rw [BitVec.getLsbD_append, if_pos h]

/-- The lowest bit of joined fields is that of a one-bit field at their end. -/
theorem getLsbD_append_bit {n : Nat} (x : BitVec n) (b : Bool) : (x ++ bit b).getLsbD 0 = b := by
  rw [getLsbD_append_low _ _ Nat.one_pos]
  cases b <;> rfl

/-- The bit next to the opcode byte, of an operand that ends in one bit. -/
theorem getLsbD_wordOf_bit (x : BitVec 23) (b : Bool) (opcode : BitVec 8) :
    (wordOf (x ++ bit b) opcode).getLsbD 8 = b :=
  (getLsbD_wordOf _ _ 0).trans (getLsbD_append_bit x b)

/-- The byte next to the opcode byte, of an operand that ends in one byte. -/
theorem extractLsb'_wordOf_byte (x : BitVec 16) (b opcode : BitVec 8) :
    (wordOf (x ++ b) opcode).extractLsb' 8 8 = b :=
  (extractLsb'_wordOf _ _ 0 8).trans BitVec.extractLsb'_append_eq_right

/-! ### Words made of their fields -/

/-- One bit of a word, as a field. -/
theorem bit_getLsbD (w : Word) (k : Nat) : bit (w.getLsbD k) = w.extractLsb' k 1 := by
  apply BitVec.eq_of_getLsbD_eq
  intro i hi
  obtain rfl : i = 0 := by omega
  simp [bit]

/-- Two adjacent fields of a word make one. -/
theorem field_append_field (w : Word) (k n m : Nat) :
    w.extractLsb' (k + n) m ++ w.extractLsb' k n = w.extractLsb' k (m + n) :=
  BitVec.extractLsb'_append_extractLsb'_eq_extractLsb' rfl

/-- A word is its operand and its opcode byte (30_encoding R64). -/
theorem wordOf_fields (w : Word) : wordOf (w.extractLsb' 8 24) (opcodeOf w) = w :=
  (field_append_field w 0 8 24).trans BitVec.extractLsb'_eq_self

/-- The operand of a word whose bits above its low n operand bits are 0. -/
theorem zero_append_extractLsb' {w : Word} {n m : Nat} (h : w.extractLsb' (8 + n) m = 0#m) :
    0#m ++ w.extractLsb' 8 n = w.extractLsb' 8 (m + n) := by
  rw [← h, field_append_field]

/-! ### Fields as values (30_encoding R67) -/

@[simp] theorem lineSelOfBits_lineSelBits (sel : LineSel) : lineSelOfBits (lineSelBits sel) = sel := by
  cases sel <;> rfl
@[simp] theorem lineSelBits_lineSelOfBits (v : BitVec 2) : lineSelBits (lineSelOfBits v) = v := by revert v; decide
@[simp] theorem roleOfBit_roleBit (role : Role) : roleOfBit (roleBit role) = role := by cases role <;> rfl
@[simp] theorem roleBit_roleOfBit (b : Bool) : roleBit (roleOfBit b) = b := by cases b <;> rfl
@[simp] theorem lineOfBit_lineBit (line : Line) : lineOfBit (lineBit line) = line := by cases line <;> rfl
@[simp] theorem lineBit_lineOfBit (b : Bool) : lineBit (lineOfBit b) = b := by cases b <;> rfl

theorem lineOfBit_eq (b : Bool) : lineOfBit b = if b then .b else .a := by cases b <;> rfl

theorem lineBit_eq_decide (line : Line) : lineBit line = decide (line = .b) := by cases line <;> rfl

theorem roleBit_eq_decide (role : Role) : roleBit role = decide (role = .source) := by cases role <;> rfl

/-- Bit 0 of a line selection is line A, bit 1 line B (30_encoding R67). -/
theorem getLsbD_lineSelBits (sel : LineSel) :
    (lineSelBits sel).getLsbD 0 = decide (sel = .a ∨ sel = .both)
    ∧ (lineSelBits sel).getLsbD 1 = decide (sel = .b ∨ sel = .both) := by
  cases sel <;> exact ⟨rfl, rfl⟩

/-! ### Reserved bits -/

/-- The bits [k + len - 1 : k] of a word. -/
def fieldMask (k len : Nat) : Word := (BitVec.allOnes len).setWidth 32 <<< k

theorem getLsbD_fieldMask {k len i : Nat} (h : k + len ≤ 32) :
    (fieldMask k len).getLsbD i = (decide (k ≤ i) && decide (i < k + len)) := by
  simp only [fieldMask, BitVec.getLsbD_shiftLeft, BitVec.getLsbD_setWidth, BitVec.getLsbD_allOnes]
  grind

/-- A word has none of the bits of a field exactly when the field is 0. -/
theorem and_fieldMask_eq_zero_iff {w : Word} {k len : Nat} (h : k + len ≤ 32) :
    w &&& fieldMask k len = 0#32 ↔ w.extractLsb' k len = 0#len := by
  simp only [BitVec.eq_of_getLsbD_eq_iff, BitVec.getLsbD_and, getLsbD_fieldMask h, BitVec.getLsbD_extractLsb',
    BitVec.getLsbD_zero]
  constructor
  · intro hand i hi
    have hbit := hand (k + i) (by omega)
    grind
  · intro hfield i hi
    have hbit := hfield (i - k)
    grind

/-- RING_PUT reserves two fields (30_encoding R66). -/
theorem and_ringPut_reserved_eq_zero_iff {w : Word} :
    w &&& (rowOfOp .ringPut).reserved = 0#32 ↔ w.extractLsb' 24 8 = 0#8 ∧ w.extractLsb' 10 6 = 0#6 := by
  rw [show (rowOfOp .ringPut).reserved = fieldMask 24 8 ||| fieldMask 10 6 from rfl, BitVec.and_or_distrib_left,
    BitVec.or_eq_zero_iff, and_fieldMask_eq_zero_iff (by decide), and_fieldMask_eq_zero_iff (by decide)]

end Sys2Proof.Machine
end

/-! ## Decoding an encoding, encoding what was decoded -/

section
namespace Sys2Proof.Machine

open Sys2Proof.Laws

/-- An instruction's encoding says what the instruction is: a word has the opcode byte and the port of an operation
whose fields give it, a phase code names it. -/
def ReadsBack (i : Instr) : Prop :=
  match encode i with
  | .word p w d => ∃ op, opcodeOf w = (rowOfOp op).opcode ∧ (rowOfOp op).port = p ∧ operands op w d = i
  | .phase c => decodePhase c = some i

/-- The fields that the encoder writes are those that the decoder reads (30_encoding R66, R67, R76). -/
theorem readsBack (i : Instr) : ReadsBack i := by
  cases i with
  | ctlStart run =>
    exact ⟨.ctlStart, opcodeOf_wordOf _ _, rfl, congrArg Instr.ctlStart (getLsbD_wordOf_bit _ run _)⟩
  | ctlReset => exact ⟨.ctlReset, rfl, rfl, rfl⟩
  | ctlSetLine sel =>
    refine ⟨.ctlSetLine, opcodeOf_wordOf _ _, rfl, ?_⟩
    rw [operands, extractLsb'_wordOf _ _ 0, BitVec.extractLsb'_append_eq_right, lineSelOfBits_lineSelBits]
  | ctlSetRole role pull =>
    refine ⟨.ctlSetRole, opcodeOf_wordOf _ _, rfl, ?_⟩
    rw [operands, getLsbD_wordOf _ _ 0, getLsbD_append_bit, roleOfBit_roleBit, extractLsb'_wordOf _ _ 1,
      extractLsb'_append_high (m := 1) _ _ 0, BitVec.extractLsb'_append_eq_right]
  | ctlSetOutmode onCapture =>
    exact ⟨.ctlSetOutmode, opcodeOf_wordOf _ _, rfl, congrArg Instr.ctlSetOutmode (getLsbD_wordOf_bit _ onCapture _)⟩
  | ctlSetAutostop on =>
    exact ⟨.ctlSetAutostop, opcodeOf_wordOf _ _, rfl, congrArg Instr.ctlSetAutostop (getLsbD_wordOf_bit _ on _)⟩
  | ctlSetIdle us =>
    exact ⟨.ctlSetIdle, opcodeOf_wordOf _ _, rfl, congrArg Instr.ctlSetIdle BitVec.extractLsb'_append_eq_left⟩
  | ctlRead idx => exact ⟨.ctlRead, opcodeOf_wordOf _ _, rfl, congrArg Instr.ctlRead (extractLsb'_wordOf_byte _ idx _)⟩
  | capByte b => exact ⟨.capByte, opcodeOf_wordOf _ _, rfl, congrArg Instr.capByte (extractLsb'_wordOf_byte _ b _)⟩
  | evRxComplete ty =>
    exact ⟨.evRxComplete, opcodeOf_wordOf _ _, rfl, congrArg Instr.evRxComplete (extractLsb'_wordOf_byte _ ty _)⟩
  | evRxError ty =>
    exact ⟨.evRxError, opcodeOf_wordOf _ _, rfl, congrArg Instr.evRxError (extractLsb'_wordOf_byte _ ty _)⟩
  | ringPut line ty part data =>
    refine ⟨.ringPut, opcodeOf_wordOf _ _, rfl, ?_⟩
    rw [operands, getLsbD_wordOf _ _ 0, getLsbD_append_bit, lineOfBit_lineBit, getLsbD_wordOf _ _ 1,
      getLsbD_append_high (m := 1) _ _ 0, getLsbD_append_bit, extractLsb'_wordOf _ _ 8,
      extractLsb'_append_high (m := 1) _ _ 7, extractLsb'_append_high (m := 1) _ _ 6,
      extractLsb'_append_high (m := 6) _ _ 0, BitVec.extractLsb'_append_eq_right]
  | ringTake => exact ⟨.ringTake, rfl, rfl, rfl⟩
  | crcInit => exact ⟨.crcInit, rfl, rfl, rfl⟩
  | crcHash data => exact ⟨.crcHash, rfl, rfl, rfl⟩
  | crcResult => exact ⟨.crcResult, rfl, rfl, rfl⟩
  | phaseStopped => exact rfl
  | phaseCycleStart => exact rfl
  | phaseTelem => exact rfl
  | phaseAssemble => exact rfl
  | phaseSeal => exact rfl
  | phaseTxDecide => exact rfl
  | phaseTxWrite => exact rfl
  | phaseTxSleep => exact rfl
  | phaseClear => exact rfl
  | phaseIdleSleep => exact rfl

/-- Every encoding has the shape of its format (30_encoding R66). -/
theorem encodingShape (i : Instr) : EncodingShape.Statement i := by
  cases i with
  | ctlStart run => exact EncodingShape.ctlStart run
  | ctlReset => exact EncodingShape.ctlReset
  | ctlSetLine sel => exact EncodingShape.ctlSetLine sel
  | ctlSetRole role pull => exact EncodingShape.ctlSetRole role pull
  | ctlSetOutmode onCapture => exact EncodingShape.ctlSetOutmode onCapture
  | ctlSetAutostop on => exact EncodingShape.ctlSetAutostop on
  | ctlSetIdle us => exact EncodingShape.ctlSetIdle us
  | ctlRead idx => exact EncodingShape.ctlRead idx
  | capByte b => exact EncodingShape.capByte b
  | evRxComplete ty => exact EncodingShape.evRxComplete ty
  | evRxError ty => exact EncodingShape.evRxError ty
  | ringPut line ty part data => exact EncodingShape.ringPut line ty part data
  | ringTake => exact EncodingShape.ringTake
  | crcInit => exact EncodingShape.crcInit
  | crcHash data => exact EncodingShape.crcHash data
  | crcResult => exact EncodingShape.crcResult
  | phaseStopped => exact EncodingShape.phaseStopped
  | phaseCycleStart => exact EncodingShape.phaseCycleStart
  | phaseTelem => exact EncodingShape.phaseTelem
  | phaseAssemble => exact EncodingShape.phaseAssemble
  | phaseSeal => exact EncodingShape.phaseSeal
  | phaseTxDecide => exact EncodingShape.phaseTxDecide
  | phaseTxWrite => exact EncodingShape.phaseTxWrite
  | phaseTxSleep => exact EncodingShape.phaseTxSleep
  | phaseClear => exact EncodingShape.phaseClear
  | phaseIdleSleep => exact EncodingShape.phaseIdleSleep

/-- A well-formed instruction gives no sink a pull strength (30_encoding R66). -/
theorem sinkWithPull_of_wellFormed {p : Params} {i : Instr} (h : i.wellFormed p = true) : sinkWithPull i = false := by
  cases i with
  | ctlSetRole role pull =>
    cases role with
    | sink => simpa [Instr.wellFormed, sinkWithPull] using h
    | source => rfl
  | _ => rfl

/-- The word of an instruction that gives no sink a pull strength decodes to it. -/
theorem decodeAt_of_encode {i : Instr} {p : Port} {w : Word} {d : List Byte} (he : encode i = .word p w d)
    (hsink : sinkWithPull i = false) : decodeAt p w d = .ok i := by
  have hback := readsBack i
  have hshape := encodingShape i
  simp only [ReadsBack, EncodingShape.Statement, he] at hback hshape
  obtain ⟨op, hop, hport, hfields⟩ := hback
  obtain ⟨row, hmem, -, hrow, hres⟩ := hshape
  have hsame : row = rowOfOp op := by
    rw [eq_rowOfOp hmem] at hrow ⊢
    exact Option.some.inj ((rowOf_of_opcode hrow).symm.trans (rowOf_of_opcode hop))
  exact decodeAt_eq_ok_iff.2 ⟨op, hop, hport, hsame ▸ hres, hfields, hsink⟩

/-- Settles O6: a word has the shape of its operation's format (`encodingShape`) and carries its operands
(`readsBack`). -/
theorem decodeEncodeRoundTrip : Obligations.DecodeEncodeRoundTrip := by
  intro p i hwf
  have hback := readsBack i
  cases he : encode i with
  | word port w d =>
    simp only [decode, decodeAt_of_encode he (sinkWithPull_of_wellFormed hwf)]
  | phase c => simpa only [ReadsBack, he, decode] using hback

/-- The word of an operation with its reserved bits 0 is the encoding of its fields (30_encoding R66). -/
theorem encode_operands {op : Op} {w : Word} (hop : opcodeOf w = (rowOfOp op).opcode)
    (hres : w &&& (rowOfOp op).reserved = 0#32) (d : List Byte) :
    ∃ d', encode (operands op w d) = .word (rowOfOp op).port w d' := by
  have hword : ∀ {operand : BitVec 24} {bytes : List Byte}, operand = w.extractLsb' 8 24 →
      ∃ d', Encoded.word (rowOfOp op).port (wordOf operand (rowOfOp op).opcode) bytes
        = .word (rowOfOp op).port w d' := by
    rintro _ bytes rfl
    exact ⟨bytes, by rw [← hop, wordOf_fields]⟩
  have hzero : ∀ {k len}, (rowOfOp op).reserved = fieldMask k len → k + len ≤ 32 → w.extractLsb' k len = 0#len :=
    fun hmask h => (and_fieldMask_eq_zero_iff h).1 (hmask ▸ hres)
  have hbit : w.extractLsb' 9 23 = 0#23 → 0#23 ++ bit (w.getLsbD 8) = w.extractLsb' 8 24 := fun h => by
    rw [bit_getLsbD]
    exact zero_append_extractLsb' h
  cases op with
  | ctlStart => exact hword (hbit (hzero rfl (by decide)))
  | ctlReset => exact hword (hzero rfl (by decide)).symm
  | ctlSetLine =>
    refine hword ?_
    rw [lineSelBits_lineSelOfBits]
    exact zero_append_extractLsb' (hzero rfl (by decide))
  | ctlSetRole =>
    refine hword ?_
    rw [roleBit_roleOfBit, bit_getLsbD, ← hzero (k := 11) (len := 21) rfl (by decide),
      field_append_field w 9 2 21, field_append_field w 8 1 23]
  | ctlSetOutmode => exact hword (hbit (hzero rfl (by decide)))
  | ctlSetAutostop => exact hword (hbit (hzero rfl (by decide)))
  | ctlSetIdle => exact hword rfl
  | ctlRead => exact hword (zero_append_extractLsb' (hzero rfl (by decide)))
  | capByte => exact hword (zero_append_extractLsb' (hzero rfl (by decide)))
  | evRxComplete => exact hword (zero_append_extractLsb' (hzero rfl (by decide)))
  | evRxError => exact hword (zero_append_extractLsb' (hzero rfl (by decide)))
  | ringPut =>
    refine hword ?_
    obtain ⟨hhigh, hmid⟩ := and_ringPut_reserved_eq_zero_iff.1 hres
    rw [lineBit_lineOfBit, bit_getLsbD, bit_getLsbD, ← hhigh, ← hmid,
      field_append_field w 16 8 8, field_append_field w 10 6 16, field_append_field w 9 1 22,
      field_append_field w 8 1 23]
  | ringTake => exact hword (hzero rfl (by decide)).symm
  | crcInit => exact hword (hzero rfl (by decide)).symm
  | crcHash => exact hword (hzero rfl (by decide)).symm
  | crcResult => exact hword (hzero rfl (by decide)).symm

/-- Settles O7: a word that decodes has its reserved bits 0, so `encode_operands` gives it back. -/
theorem decodedWordsEncodeBack : Obligations.DecodedWordsEncodeBack := by
  refine ⟨fun p w d i h => ?_, fun c i => encode_of_decodePhase⟩
  obtain ⟨op, hop, rfl, hres, rfl, -⟩ := decodeAt_eq_ok_iff.1 h
  exact encode_operands hop hres d

end Sys2Proof.Machine
end

/-! ## Encoding: words read as numbers -/

section
namespace Sys2Proof.Machine

/-- The opcode byte of a word, as a number (30_encoding R64). -/
theorem opcodeNat_eq (w : Word) : opcodeNat w = (opcodeOf w).toNat := by
  simp [opcodeNat, opcodeOf, BitVec.extractLsb'_toNat]

/-- A field of the operand as a number. -/
theorem extractLsb'_toNat_operandNat (w : Word) (k len : Nat) :
    (w.extractLsb' (8 + k) len).toNat = operandNat w / 2 ^ k % 2 ^ len := by
  rw [BitVec.extractLsb'_toNat, Nat.shiftRight_add, Nat.shiftRight_eq_div_pow, Nat.shiftRight_eq_div_pow]
  rfl

/-- A bit of the operand. -/
theorem getLsbD_operandNat (w : Word) (k : Nat) : w.getLsbD (8 + k) = (operandNat w / 2 ^ k % 2 == 1) := by
  rw [BitVec.getLsbD_eq_extractLsb', Bool.eq_iff_iff, beq_iff_eq, beq_iff_eq, ← BitVec.toNat_inj,
    extractLsb'_toNat_operandNat]
  rfl

/-- A field of the operand. -/
theorem extractLsb'_eq_ofNat (w : Word) (k len : Nat) :
    w.extractLsb' (8 + k) len = BitVec.ofNat len (operandNat w / 2 ^ k) := by
  rw [← BitVec.toNat_inj, extractLsb'_toNat_operandNat, BitVec.toNat_ofNat]

/-- A word has none of the bits of a field of its operand exactly when that part of the number is 0. -/
theorem extractLsb'_eq_zero_iff (w : Word) (k len : Nat) :
    w.extractLsb' (8 + k) len = 0#len ↔ operandNat w / 2 ^ k % 2 ^ len = 0 := by
  rw [← BitVec.toNat_inj, extractLsb'_toNat_operandNat, BitVec.toNat_ofNat, Nat.zero_mod]

theorem operandNat_lt (w : Word) : operandNat w < 2 ^ 24 := by
  rw [operandNat]
  omega

/-- A word has none of the operand bits above the low k exactly when its operand is below 2^k. -/
theorem and_highMask_eq_zero_iff {k : Nat} (hk : k ≤ 24) (w : Word) :
    w &&& fieldMask (8 + k) (24 - k) = 0#32 ↔ operandNat w < 2 ^ k := by
  have hlt : operandNat w / 2 ^ k < 2 ^ (24 - k) := by
    rw [Nat.div_lt_iff_lt_mul (Nat.two_pow_pos k), ← Nat.pow_add, Nat.sub_add_cancel hk]
    exact operandNat_lt w
  rw [and_fieldMask_eq_zero_iff (by omega), extractLsb'_eq_zero_iff, Nat.mod_eq_of_lt hlt,
    Nat.div_eq_zero_iff_lt (Nat.two_pow_pos k)]

theorem opcodeOf_eq_iff {w : Word} {c : BitVec 8} : opcodeOf w = c ↔ opcodeNat w = c.toNat := by
  rw [opcodeNat_eq, BitVec.toNat_inj]

/-- A port accepts the opcode bytes of its operations and no other (30_encoding R65, R69). -/
theorem opcodeAccepted_iff {p : Port} {w : Word} :
    opcodeAccepted p (opcodeNat w) ↔ ∃ op, opcodeOf w = (rowOfOp op).opcode ∧ (rowOfOp op).port = p := by
  constructor
  · intro h
    cases p with
    | control =>
      obtain ⟨hlo, hhi⟩ := h
      interval_cases hn : opcodeNat w
      · exact ⟨.ctlStart, opcodeOf_eq_iff.2 hn, rfl⟩
      · exact ⟨.ctlReset, opcodeOf_eq_iff.2 hn, rfl⟩
      · exact ⟨.ctlSetLine, opcodeOf_eq_iff.2 hn, rfl⟩
      · exact ⟨.ctlSetRole, opcodeOf_eq_iff.2 hn, rfl⟩
      · exact ⟨.ctlSetOutmode, opcodeOf_eq_iff.2 hn, rfl⟩
      · exact ⟨.ctlSetAutostop, opcodeOf_eq_iff.2 hn, rfl⟩
      · exact ⟨.ctlSetIdle, opcodeOf_eq_iff.2 hn, rfl⟩
      · exact ⟨.ctlRead, opcodeOf_eq_iff.2 hn, rfl⟩
    | capture =>
      obtain ⟨hlo, hhi⟩ := h
      interval_cases hn : opcodeNat w
      · exact ⟨.capByte, opcodeOf_eq_iff.2 hn, rfl⟩
      · exact ⟨.evRxComplete, opcodeOf_eq_iff.2 hn, rfl⟩
      · exact ⟨.evRxError, opcodeOf_eq_iff.2 hn, rfl⟩
    | internal =>
      rcases h with hn | hn | hn | hn | hn
      · exact ⟨.ringPut, opcodeOf_eq_iff.2 hn, rfl⟩
      · exact ⟨.ringTake, opcodeOf_eq_iff.2 hn, rfl⟩
      · exact ⟨.crcInit, opcodeOf_eq_iff.2 hn, rfl⟩
      · exact ⟨.crcHash, opcodeOf_eq_iff.2 hn, rfl⟩
      · exact ⟨.crcResult, opcodeOf_eq_iff.2 hn, rfl⟩
  · rintro ⟨op, hop, rfl⟩
    rw [opcodeOf_eq_iff.1 hop]
    cases op <;> simp [rowOfOp, opTable, opcodeAccepted]

/-- Settles O8: both sides say which operation of the port has the word's opcode byte. -/
theorem opcodeMapIsExact : Obligations.OpcodeMapIsExact := by
  intro p w d
  rw [decodeAt_eq_illegalOpcode_iff, opcodeAccepted_iff]
  push Not
  rfl

end Sys2Proof.Machine
end

/-! ## Internal words -/

section
namespace Sys2Proof.Machine

/-- Every internal operation but RING_PUT reserves its whole operand (30_encoding R66). -/
theorem internalReservedSet_of_ne {n h : Nat} (hn : n ≠ 32) : internalReservedSet n h ↔ h ≠ 0 := by
  simp [internalReservedSet, hn]

/-- RING_PUT reserves bits [31:24] and [15:10] (30_encoding R66). -/
theorem internalReservedSet_ringPut {h : Nat} : internalReservedSet 32 h ↔ 65536 ≤ h ∨ h / 4 % 64 ≠ 0 := by
  simp [internalReservedSet]

/-- A reserved bit of an internal word, as the mask of its row and as numbers (30_encoding R66). -/
theorem internalReservedSet_iff {op : Op} {w : Word} (hport : (rowOfOp op).port = .internal)
    (hop : opcodeOf w = (rowOfOp op).opcode) :
    internalReservedSet (opcodeNat w) (operandNat w) ↔ w &&& (rowOfOp op).reserved ≠ 0#32 := by
  have hwhole : operandNat w ≠ 0 ↔ w &&& fieldMask 8 24 ≠ 0#32 :=
    not_congr ((and_highMask_eq_zero_iff (Nat.zero_le 24) w).trans Nat.lt_one_iff).symm
  rw [opcodeOf_eq_iff.1 hop]
  cases op with
  | ringPut =>
    have hlt := operandNat_lt w
    rw [Ne, and_ringPut_reserved_eq_zero_iff, extractLsb'_eq_zero_iff w 16 8, extractLsb'_eq_zero_iff w 2 6]
    refine internalReservedSet_ringPut.trans ?_
    omega
  | ringTake => exact (internalReservedSet_of_ne (by decide)).trans hwhole
  | crcInit => exact (internalReservedSet_of_ne (by decide)).trans hwhole
  | crcHash => exact (internalReservedSet_of_ne (by decide)).trans hwhole
  | crcResult => exact (internalReservedSet_of_ne (by decide)).trans hwhole
  | _ => cases hport

/-- The operation of an internal word, field by field (30_encoding R67). -/
theorem operands_eq_internalOf {op : Op} {w : Word} (hport : (rowOfOp op).port = .internal)
    (hop : opcodeOf w = (rowOfOp op).opcode) (d : List Byte) :
    operands op w d = internalOf (opcodeNat w) (operandNat w) d := by
  rw [opcodeOf_eq_iff.1 hop]
  cases op with
  | ringPut =>
    rw [operands, getLsbD_operandNat w 0, getLsbD_operandNat w 1, extractLsb'_eq_ofNat w 8,
      lineOfBit_eq]
    simp only [Nat.pow_zero, Nat.div_one, beq_iff_eq]
    rfl
  | ringTake => rfl
  | crcInit => rfl
  | crcHash => rfl
  | crcResult => rfl
  | _ => cases hport

/-- Only CTL_SET_ROLE has a role and a pull strength (30_encoding R66). -/
theorem sinkWithPull_operands {op : Op} (h : op ≠ .ctlSetRole) (w : Word) (d : List Byte) :
    sinkWithPull (operands op w d) = false := by
  cases op with
  | ctlSetRole => exact absurd rfl h
  | _ => rfl

/-- An internal word that decodes runs its operation (00_scope R12). -/
theorem step_internal_ok {s : State} {w : Word} {d : List Byte} {i : Instr}
    (hturn : nextTurn s = .internal w d) (h : decodeAt .internal w d = .ok i) : step s = exec i (afterTurn s) := by
  simp only [step_eq, hturn, h]

/-- An internal word that does not decode is a fault (60_exceptions R181). -/
theorem step_internal_error {s : State} {w : Word} {d : List Byte} {e : DecodeError}
    (hturn : nextTurn s = .internal w d) (h : decodeAt .internal w d = .error e) : step s = .fault .badInternalOp := by
  simp only [step_eq, hturn, h]

/-- Settles O16: an internal word is of no operation, has a reserved bit set, or decodes; the length of the bytes of a
RING_PUT is checked when it runs (41_ring R88). -/
theorem internalWordsFaultUnlessLegal : Obligations.InternalWordsFaultUnlessLegal := by
  intro s w d hturn
  have hreserved : opcodeAccepted .internal (opcodeNat w) → internalReservedSet (opcodeNat w) (operandNat w) →
      step s = .fault .badInternalOp := by
    intro hacc hres
    obtain ⟨op, hop, hport⟩ := opcodeAccepted_iff.1 hacc
    have hdec := decodeAt_of_reserved hop ((internalReservedSet_iff hport hop).1 hres) d
    exact step_internal_error hturn (hport ▸ hdec)
  have hlegal : opcodeAccepted .internal (opcodeNat w) → ¬ internalReservedSet (opcodeNat w) (operandNat w) →
      step s = exec (internalOf (opcodeNat w) (operandNat w) d) (afterTurn s) := by
    intro hacc hres
    obtain ⟨op, hop, hport⟩ := opcodeAccepted_iff.1 hacc
    rw [internalReservedSet_iff hport hop, not_not] at hres
    rw [← operands_eq_internalOf hport hop]
    have hsink : sinkWithPull (operands op w d) = false :=
      sinkWithPull_operands (by rintro rfl; cases hport) w d
    exact step_internal_ok hturn (decodeAt_eq_ok_iff.2 ⟨op, hop, hport, hres, rfl, hsink⟩)
  refine ⟨fun hacc => step_internal_error hturn ((opcodeMapIsExact .internal w d).2 hacc), hreserved,
    fun hput hlong => ?_, hlegal⟩
  have hacc : opcodeAccepted .internal (opcodeNat w) := .inl hput
  by_cases hres : internalReservedSet (opcodeNat w) (operandNat w)
  · exact hreserved hacc hres
  · rw [hlegal hacc hres, hput]
    show putCapture _ _ _ d (afterTurn s) = _
    rw [putCapture_eq, afterTurn_params, if_pos hlong]

end Sys2Proof.Machine
end

/-! ## The register map -/

section
namespace Sys2Proof.Machine

/-! ### Rejected operands -/

/-- A command with k operand bits rejects every wider operand (30_encoding R66, 44_control R150). -/
theorem rejectsOperandFrom_of_reserved {op : Op} (hport : (rowOfOp op).port = .control) {k : Nat} (hk : k ≤ 24)
    (hmask : (rowOfOp op).reserved = fieldMask (8 + k) (24 - k)) :
    rejectsOperandFrom (rowOfOp op).opcode.toNat (2 ^ k) := by
  intro s w hturn hopcode hwide
  have hres : w &&& (rowOfOp op).reserved ≠ 0#32 := by
    rw [hmask, Ne, and_highMask_eq_zero_iff hk]
    exact Nat.not_lt.2 hwide
  have hdec := decodeAt_of_reserved (opcodeOf_eq_iff.2 hopcode) hres []
  rw [hport] at hdec
  simp only [step_eq, hturn, hdec]
  rfl

/-! ### CTL_READ -/

/-- A read of a register answers its value (44_control R158). -/
theorem exec_ctlRead_of_some {idx : BitVec 8} {s : State} {v : Word} (h : readReg idx s = some v) :
    exec (.ctlRead idx) s = .next (answered s 0#8 v) := by
  simp only [exec, execCtlRead, h]
  rfl

/-- A read of no register answers BAD_REG_INDEX (44_control R158). -/
theorem exec_ctlRead_of_none {idx : BitVec 8} {s : State} (h : readReg idx s = none) :
    exec (.ctlRead idx) s = .next (answered s 3#8 0#32) := by
  simp only [exec, execCtlRead, h]
  rfl

/-- The indices of no register are those from 0x13 (30_encoding R74). -/
theorem readReg_eq_none_iff {idx : BitVec 8} {s : State} : readReg idx s = none ↔ 0x13 ≤ idx.toNat := by
  unfold readReg
  split
  case h_20 => simp only [true_iff]; grind
  all_goals simp [*]

/-- Of all registers only ERR_CODE shows that a command was answered (44_control R158). -/
theorem readReg_answered {idx : BitVec 8} (h : idx ≠ 0x12#8) (s : State) (code : BitVec 8) (v : Word) :
    readReg idx (answered s code v) = readReg idx s := by
  unfold readReg
  split
  case h_19 hidx => exact absurd (BitVec.eq_of_toNat_eq hidx) h
  all_goals rfl

/-- Settles O30: what a read answers is `readReg`, which an answered command changes for ERR_CODE only. -/
theorem readAnswersRegisterMap : Obligations.ReadAnswersRegisterMap := by
  have hnumber : ∀ idx, opcodeNumber (.ctlRead idx) = some 8 := fun idx =>
    congrArg some (opcodeOf_eq_iff.1 (opcodeOf_wordOf _ _))
  have hrejects : rejectsOperandFrom 8 256 :=
    rejectsOperandFrom_of_reserved (op := .ctlRead) (k := 8) rfl (by decide) rfl
  refine ⟨hnumber, hrejects, fun s => ?_⟩
  have hread : ∀ {idx v}, readReg idx s = some v → exec (.ctlRead idx) s = .next (answered s 0#8 v) :=
    exec_ctlRead_of_some
  have hcount : ∀ {idx n}, readReg idx s = some (natWord idx n) → n < 2 ^ 32 →
      exec (.ctlRead idx) s = .next (answered s 0#8 (BitVec.ofNat 32 n)) :=
    fun hreg hlt => hread (hreg.trans (congrArg some (natWord_of_lt _ hlt)))
  refine ⟨fun idx => ?_, hread rfl, hread rfl, hread rfl, hread rfl, hcount rfl, hcount rfl,
    fun n hn hring => hcount ?_, hread rfl, hread rfl, hcount rfl, hread rfl, hread rfl, hread rfl, hread rfl,
    hread rfl, hread rfl, hread rfl, hcount rfl, hread rfl,
    fun idx hidx => exec_ctlRead_of_none (readReg_eq_none_iff.2 hidx)⟩
  · cases h : readReg idx s with
    | none =>
      exact ⟨3#8, 0#32, exec_ctlRead_of_none h, fun hidx => absurd hidx (Nat.not_lt.2 (readReg_eq_none_iff.1 h)),
        fun hne => exec_ctlRead_of_none ((readReg_answered hne s _ _).trans h)⟩
    | some v =>
      exact ⟨0#8, v, exec_ctlRead_of_some h, fun _ => rfl,
        fun hne => exec_ctlRead_of_some ((readReg_answered hne s _ _).trans h)⟩
  · obtain ⟨-, hw, hr, -⟩ := hring
    rw [hn, ← ringCount_eq hw hr]
    rfl

/-! ### STATUS and CONFIG

Each bit is read off by dropping the fields below it. The widths of the joined fields stay sums (`-Nat.reduceAdd`), as
the lemmas about joined fields state them. -/

/-- The bits of STATUS (30_encoding R75). -/
theorem statusWord_bits (s : State) :
    (statusWord s).getLsbD 0 = s.cfg.run ∧ (statusWord s).getLsbD 1 = decide (s.framer.phase ≠ 0#4)
    ∧ (statusWord s).getLsbD 2 = decide (s.ring.w = s.ring.r) ∧ (statusWord s).getLsbD 3 = s.ring.lostPending
    ∧ (statusWord s).getLsbD 4 = s.framer.autostopped ∧ (statusWord s).getLsbD 5 = s.framer.wake
    ∧ (statusWord s).getLsbD 6 = decide (s.telem.active = .b) ∧ (statusWord s).extractLsb' 7 5 = s.telem.measErr
    ∧ (statusWord s).extractLsb' 12 4 = s.framer.phase ∧ (statusWord s).getLsbD 16 = s.framer.pending0
    ∧ (statusWord s).getLsbD 17 = s.framer.aborted ∧ (statusWord s).extractLsb' 18 14 = 0#14 := by
  simp only [statusWord, getLsbD_append_bit, getLsbD_append_high (m := 1), getLsbD_append_high (m := 4),
    getLsbD_append_high (m := 5), extractLsb'_append_high (m := 1), extractLsb'_append_high (m := 4),
    extractLsb'_append_high (m := 5), BitVec.extractLsb'_append_eq_right, BitVec.extractLsb'_eq_self,
    lineBit_eq_decide, bne, beq_eq_decide, phStopped, decide_not, -Nat.reduceAdd, true_and]

/-- The bits of CONFIG (30_encoding R75). -/
theorem configWord_bits (c : RunConfig) :
    (configWord c).getLsbD 0 = decide (c.lineSel = .a ∨ c.lineSel = .both)
    ∧ (configWord c).getLsbD 1 = decide (c.lineSel = .b ∨ c.lineSel = .both)
    ∧ (configWord c).getLsbD 2 = decide (c.role = .source) ∧ (configWord c).extractLsb' 3 2 = c.pull
    ∧ (configWord c).getLsbD 5 = c.suppress ∧ (configWord c).getLsbD 6 = c.autostop
    ∧ (configWord c).extractLsb' 7 25 = 0#25 := by
  obtain ⟨ha, hb⟩ := getLsbD_lineSelBits c.lineSel
  refine ⟨(getLsbD_append_low _ _ (by decide)).trans ha, (getLsbD_append_low _ _ (by decide)).trans hb, ?_⟩
  simp only [configWord, getLsbD_append_bit, getLsbD_append_high (m := 1), getLsbD_append_high (m := 2),
    extractLsb'_append_high (m := 1), extractLsb'_append_high (m := 2), BitVec.extractLsb'_append_eq_right,
    BitVec.extractLsb'_eq_self, roleBit_eq_decide, -Nat.reduceAdd, true_and]

/-- Settles O31: CTL_READ answers the two words, and each bit is a field of them. -/
theorem statusAndConfigBits : Obligations.StatusAndConfigBits :=
  ⟨fun s => ⟨statusWord s, exec_ctlRead_of_some rfl, statusWord_bits s⟩,
    fun s => ⟨configWord s.cfg, exec_ctlRead_of_some rfl, configWord_bits s.cfg⟩⟩

end Sys2Proof.Machine
end

/-! ## Words and lines written out -/

section
namespace Sys2Proof.Machine

/-- A word as the sum of its operand, shifted, and its opcode byte (30_encoding R64). -/
theorem wordOf_eq_or (operand : BitVec 24) (opcode : BitVec 8) :
    wordOf operand opcode = operand.setWidth 32 <<< 8 ||| opcode.setWidth 32 := by
  apply BitVec.eq_of_toNat_eq
  have hoperand := operand.isLt
  have hshift : operand.toNat <<< 8 < 2 ^ 32 := by
    rw [Nat.shiftLeft_eq]
    omega
  simp only [wordOf, BitVec.toNat_append, BitVec.toNat_or, BitVec.toNat_shiftLeft, BitVec.toNat_setWidth]
  rw [Nat.mod_eq_of_lt (by omega : operand.toNat < 2 ^ 32), Nat.mod_eq_of_lt hshift, Nat.mod_eq_of_lt (by omega)]

/-- The word of an operand of one byte. -/
theorem wordOf_byte (b opcode : BitVec 8) :
    wordOf (0#16 ++ b) opcode = b.setWidth 32 <<< 8 ||| opcode.setWidth 32 := by
  have hwide : (0#16 ++ b).setWidth 32 = b.setWidth 32 := by
    apply BitVec.eq_of_toNat_eq
    simp only [BitVec.toNat_append, BitVec.toNat_setWidth, BitVec.toNat_ofNat, Nat.zero_mod, Nat.zero_shiftLeft,
      Nat.zero_or]
  rw [wordOf_eq_or, ← hwide]

/-- The word of RING_PUT (30_encoding R66): line in bit 8, partial in bit 9, type in bits [23:16]. -/
theorem wordOf_ringPut (line : Line) (ty : BitVec 8) (part : Bool) :
    wordOf (0#8 ++ ty ++ 0#6 ++ bit part ++ bit (lineBit line)) 0x20#8
      = ty.setWidth 32 <<< 16 ||| (if part then 0x200#32 else 0#32) ||| (if line = .b then 0x100#32 else 0#32)
        ||| 0x20#32 := by
  apply BitVec.eq_of_toNat_eq
  have hty := ty.isLt
  have hshift : ty.toNat <<< 16 < 2 ^ 32 := by
    rw [Nat.shiftLeft_eq]
    omega
  simp only [wordOf, bit, BitVec.toNat_append, BitVec.toNat_or, BitVec.toNat_shiftLeft, BitVec.toNat_setWidth,
    BitVec.toNat_ofNat, BitVec.toNat_ofBool, Nat.shiftLeft_or_distrib, ← Nat.shiftLeft_add, Nat.zero_mod,
    Nat.zero_shiftLeft, Nat.zero_or, Nat.or_zero]
  rw [Nat.mod_eq_of_lt (by omega : ty.toNat < 2 ^ 32), Nat.mod_eq_of_lt hshift]
  cases part <;> cases line <;> rfl

/-- Settles O9: the words of operands up to two bits are evaluated, the wider ones are `wordOf_eq_or`, `wordOf_byte`
and `wordOf_ringPut`. -/
theorem wordsAreAsTabulated : Obligations.WordsAreAsTabulated := by
  have hpull : ∀ p : BitVec 2,
      wordOf (0#21 ++ p ++ bit (roleBit .source)) 0x04#8 = 0x00000104#32 ||| p.setWidth 32 <<< 9 := by decide
  have hbyte : ∀ (port : Port) (b opcode : BitVec 8),
      Encoded.word port (wordOf (0#16 ++ b) opcode) [] = .word port (b.setWidth 32 <<< 8 ||| opcode.setWidth 32) [] :=
    fun port b opcode => congrArg (Encoded.word port · []) (wordOf_byte b opcode)
  exact ⟨fun run => by cases run <;> rfl, rfl, rfl, rfl, rfl, rfl, rfl,
    fun p => congrArg (Encoded.word .control · []) (hpull p), fun on => by cases on <;> rfl,
    fun on => by cases on <;> rfl, fun us => congrArg (Encoded.word .control · []) (wordOf_eq_or us 0x07#8),
    fun idx => hbyte .control idx 0x08#8, fun b => hbyte .capture b 0x10#8, fun ty => hbyte .capture ty 0x11#8,
    fun ty => hbyte .capture ty 0x12#8,
    fun line ty part d => congrArg (Encoded.word .internal · d) (wordOf_ringPut line ty part), rfl, rfl,
    fun _ => rfl, rfl⟩

/-- Settles O10: nine closed lines, evaluated. -/
theorem assemblerReadsNineLines : Obligations.AssemblerReadsNineLines := by
  unfold Obligations.AssemblerReadsNineLines
  decide +kernel

/-- Settles O11: each word is the encoding of its instruction, so `decodeAt_of_encode` reads it back. -/
theorem writtenOutWordsDecode : Obligations.WrittenOutWordsDecode :=
  ⟨decodeAt_of_encode rfl rfl, decodeAt_of_encode rfl rfl, decodeAt_of_encode rfl rfl, decodeAt_of_encode rfl rfl,
    decodeAt_of_encode rfl rfl, decodeAt_of_encode rfl rfl, decodeAt_of_encode rfl rfl, decodeAt_of_encode rfl rfl, rfl⟩

/-- The codes 10 to 15 name no phase (30_encoding R76). -/
theorem decodePhase_eq_none {c : BitVec 4} (h : 10 ≤ c.toNat) : decodePhase c = none := by
  have hall : ∀ c : BitVec 4, 10 ≤ c.toNat → decodePhase c = none := by decide
  exact hall c h

/-- Settles O12: the ten codes are evaluated, and a framer turn with a code of no phase is the fault branch of
`step_eq`. -/
theorem phaseCodesNamePhases : Obligations.PhaseCodesNamePhases := by
  refine ⟨rfl, rfl, rfl, rfl, rfl, rfl, rfl, rfl, rfl, rfl, fun s hturn hcode => ?_⟩
  simp only [step_eq, hturn, decodePhase_eq_none hcode]

end Sys2Proof.Machine
end

/-! ## The Integrity Coder -/

section
namespace Sys2Proof.Machine

/-- A CRC_INIT sets the CRC register (40_crc R83). -/
@[simp] theorem exec_crcInit (s : State) : exec .crcInit s = .next (crcInitOp s) := rfl

/-- A CRC_HASH folds its bytes (40_crc R84). -/
@[simp] theorem exec_crcHash (data : List Byte) (s : State) : exec (.crcHash data) s = .next (crcHashOp data s) := rfl

/-- A CRC_RESULT leaves its code as the side-band result (40_crc R85). -/
@[simp] theorem exec_crcResult (s : State) :
    exec .crcResult s = .next (setOpResult (.code (crcResultOp s)) s) := rfl

/-- No instructions leave the state as it is. -/
@[simp] theorem runInstrs_nil (s : State) : runInstrs [] s = .next s := rfl

/-- After an instruction that answers a state, the rest runs from that state. -/
theorem runInstrs_cons_of_next {i : Instr} {s t : State} (h : exec i s = .next t) (rest : List Instr) :
    runInstrs (i :: rest) s = runInstrs rest t := by
  simp only [runInstrs, h]

@[simp] theorem runInstrs_crcInit (rest : List Instr) (s : State) :
    runInstrs (.crcInit :: rest) s = runInstrs rest (crcInitOp s) :=
  runInstrs_cons_of_next (exec_crcInit s) rest

@[simp] theorem runInstrs_crcHash (data : List Byte) (rest : List Instr) (s : State) :
    runInstrs (.crcHash data :: rest) s = runInstrs rest (crcHashOp data s) :=
  runInstrs_cons_of_next (exec_crcHash data s) rest

@[simp] theorem runInstrs_crcResult (rest : List Instr) (s : State) :
    runInstrs (.crcResult :: rest) s = runInstrs rest (setOpResult (.code (crcResultOp s)) s) :=
  runInstrs_cons_of_next (exec_crcResult s) rest

/-- Setting the CRC register twice is setting it once. -/
theorem crcInitOp_crcInitOp (s : State) : crcInitOp (crcInitOp s) = crcInitOp s := rfl

/-- Setting the CRC register discards what was folded into it (40_crc R83). -/
theorem crcInitOp_crcHashOp (data : List Byte) (s : State) : crcInitOp (crcHashOp data s) = crcInitOp s := rfl

/-- Folding no bytes changes nothing (40_crc R84). -/
theorem crcHashOp_nil (s : State) : crcHashOp [] s = s := rfl

/-- Two folds are one over the joined list (40_crc R84). -/
theorem crcHashOp_crcHashOp (a b : List Byte) (s : State) :
    crcHashOp b (crcHashOp a s) = crcHashOp (a ++ b) s := by
  simp only [crcHashOp, crcFold_append]

/-- The code depends on the CRC register alone, so a side-band result does not change it. -/
theorem crcResultOp_setOpResult (r : OpResult) (s : State) : crcResultOp (setOpResult r s) = crcResultOp s := rfl

/-- A later side-band result takes the place of an earlier one. -/
theorem setOpResult_setOpResult (r r' : OpResult) (s : State) :
    setOpResult r (setOpResult r' s) = setOpResult r s := rfl

/-- Initialising, folding and reading gives the code of the bytes (40_crc R86). -/
theorem crcResultOp_crcHashOp_crcInitOp (data : List Byte) (s : State) :
    crcResultOp (crcHashOp data (crcInitOp s)) = crc32 data := rfl

/-- Initialising and reading gives the code of no bytes, which is 0 (40_crc R85). -/
theorem crcResultOp_crcInitOp (s : State) : crcResultOp (crcInitOp s) = 0#32 := by
  rw [crcResultOp, crcInitOp_crc, BitVec.xor_self]

/-- The fold of the ASCII bytes "123456789" (40_crc R84, the example). -/
theorem crcFold_checkBytes :
    crcFold 0xFFFFFFFF#32 [0x31#8, 0x32#8, 0x33#8, 0x34#8, 0x35#8, 0x36#8, 0x37#8, 0x38#8, 0x39#8] = 0x340BC6D9#32 := by
  decide +kernel

/-- Settles O32: the word is the encoding of CRC_INIT, and setting the register forgets what it held. -/
theorem crcInitSetsState : Obligations.CrcInitSetsState := by
  refine ⟨decodeAt_of_encode rfl rfl, exec_crcInit, fun s d => ⟨?_, ?_⟩⟩
  · simp only [runInstrs_crcInit, runInstrs_nil, exec_crcInit, crcInitOp_crcInitOp]
  · simp only [runInstrs_crcHash, runInstrs_crcInit, runInstrs_nil, exec_crcInit, crcInitOp_crcHashOp]

/-- Settles O33: the composition is that of the fold over a joined list (`crcFold_append`). -/
theorem crcHashFoldsAndComposes : Obligations.CrcHashFoldsAndComposes := by
  refine ⟨fun _ => decodeAt_of_encode rfl rfl, fun s d => exec_crcHash d s, fun s => ?_, fun s a b => ?_,
    crcFold_checkBytes⟩
  · rw [exec_crcHash, crcHashOp_nil]
  · simp only [runInstrs_crcHash, runInstrs_nil, exec_crcHash, crcHashOp_crcHashOp]

/-- Settles O34: CRC_RESULT writes the side-band result only, which neither the fold nor the code reads. -/
theorem crcResultReadsWithoutWriting : Obligations.CrcResultReadsWithoutWriting := by
  refine ⟨decodeAt_of_encode rfl rfl, fun s => ⟨_, ?_, exec_crcResult s⟩,
    fun s d => ⟨_, _, runInstrs_crcResult [.crcHash d] s, exec_crcHash d s, ?_⟩, exec_crcResult,
    fun s a => ⟨setOpResult (.code (crc32 a)) (crcHashOp a (crcInitOp s)), ?_, rfl⟩,
    fun s => ⟨setOpResult (.code 0#32) (crcInitOp s), ?_, rfl⟩, fun s hs => ⟨_, exec_crcResult s, ?_⟩⟩
  · simp only [runInstrs_crcResult, runInstrs_nil, crcResultOp_setOpResult, setOpResult_setOpResult]
  · simp only [crcHashOp_crc, setOpResult_crc]
  · simp only [runInstrs_crcInit, runInstrs_crcHash, runInstrs_crcResult, runInstrs_nil,
      crcResultOp_crcHashOp_crcInitOp]
  · simp only [runInstrs_crcInit, runInstrs_crcResult, runInstrs_nil, crcResultOp_crcInitOp]
  · have hcode : crcResultOp s = 0xCBF43926#32 := by simp [crcResultOp, hs]
    rw [setOpResult_env, hcode]

end Sys2Proof.Machine
end

/-! ## The fold of the Integrity Coder is injective -/

section
namespace Sys2Proof.Machine

/-- The bit a round shifts out is the top bit of its answer, since the polynomial has bit 31 set. -/
theorem getLsbD_crcBit_31 (c : Word) : (crcBit c).getLsbD 31 = c.getLsbD 0 := by
  have htop : (c >>> 1).getLsbD 31 = false := by
    rw [BitVec.getLsbD_ushiftRight]
    exact BitVec.getLsbD_of_ge c _ le_rfl
  unfold crcBit
  split
  · next hbit => rw [BitVec.getLsbD_xor, htop, hbit]; rfl
  · next hbit => rw [htop, Bool.eq_false_of_not_eq_true hbit]

/-- Bit 0 and the word shifted right by one give the word back. -/
theorem eq_of_shiftRight_eq {c d : Word} (hbit : c.getLsbD 0 = d.getLsbD 0) (hshift : c >>> 1 = d >>> 1) : c = d := by
  refine BitVec.eq_of_getLsbD_eq fun n _ => ?_
  cases n with
  | zero => exact hbit
  | succ n => simpa [Nat.add_comm] using congrArg (·.getLsbD n) hshift

/-- A round loses nothing: the top bit of its answer says which branch was taken, and each branch can be undone. -/
theorem crcBit_injective : Function.Injective crcBit := by
  intro c d h
  have hbit : c.getLsbD 0 = d.getLsbD 0 := by rw [← getLsbD_crcBit_31 c, h, getLsbD_crcBit_31]
  refine eq_of_shiftRight_eq hbit ?_
  simp only [crcBit, hbit] at h
  split at h
  · exact (BitVec.xor_left_inj _).1 h
  · exact h

theorem crcRounds_injective (n : Nat) : Function.Injective (crcRounds n) := by
  induction n with
  | zero => exact fun _ _ h => h
  | succ n ih => exact ih.comp crcBit_injective

/-- The fold of one byte loses nothing of the register. -/
theorem crcByte_injective_left (b : Byte) : Function.Injective (crcByte · b) :=
  fun _ _ h => (BitVec.xor_left_inj _).1 (crcRounds_injective 8 h)

/-- The fold of one byte loses nothing of the byte. -/
theorem crcByte_injective_right (c : Word) : Function.Injective (crcByte c) := by
  intro x y h
  have hwide : x.setWidth 32 = y.setWidth 32 := (BitVec.xor_right_inj _).1 (crcRounds_injective 8 h)
  simpa using congrArg (BitVec.setWidth 8) hwide

/-- The fold of a list loses nothing of the register it starts from. -/
theorem crcFold_injective (bs : List Byte) : Function.Injective (crcFold · bs) := by
  induction bs with
  | nil => exact fun _ _ h => h
  | cons b bs ih => exact ih.comp (crcByte_injective_left b)

/-- Settles O35: from the common register after `before`, the two bytes give two registers
(`crcByte_injective_right`), which `after` keeps apart (`crcFold_injective`). -/
theorem crcDetectsOneChangedByte : Obligations.CrcDetectsOneChangedByte := by
  intro before after x y hne hcode
  have hfold : crcFold 0xFFFFFFFF#32 (before ++ x :: after) = crcFold 0xFFFFFFFF#32 (before ++ y :: after) :=
    (BitVec.xor_left_inj _).1 hcode
  rw [crcFold_append, crcFold_append] at hfold
  exact hne (crcByte_injective_right _ (crcFold_injective after hfold))

end Sys2Proof.Machine
end

/-! ## The ring: slots and indices -/

section
namespace Sys2Proof.Machine

/-! ### What a put, a take and a reset do to the slots -/

/-- A RING_PUT that fits changes the ring only (41_ring R88). -/
theorem exec_ringPut_of_le {s : State} {data : List Byte} (h : data.length ≤ s.params.payloadMax) (line : Line)
    (ty : BitVec 8) (part : Bool) :
    exec (.ringPut line ty part data) s = .next { s with ring := ringPutOp line ty part data s.ring } :=
  (putCapture_eq line ty part data s).trans (if_neg (Nat.not_lt.2 h))

/-- A RING_PUT that does not fit is a fault (41_ring R88, 60_exceptions R181). -/
theorem exec_ringPut_of_gt {s : State} {data : List Byte} (h : s.params.payloadMax < data.length) (line : Line)
    (ty : BitVec 8) (part : Bool) : exec (.ringPut line ty part data) s = .fault .badInternalOp :=
  (putCapture_eq line ty part data s).trans (if_pos h)

/-- A RING_TAKE changes the ring and leaves its side-band result (41_ring R89). -/
theorem exec_ringTake (s : State) :
    exec .ringTake s = .next
      { s with ring := (ringTakeOp s.ring).2, env := { s.env with opResult := .taken (ringTakeOp s.ring).1 } } := rfl

/-- Every slot after a put: the one at the write index is written (41_ring R88). -/
theorem getSlot_ringPutOp {g : Ring} (hw : g.w < g.nslots) (line : Line) (ty : BitVec 8) (part : Bool)
    (data : List Byte) (i : Nat) :
    getSlot (ringPutOp line ty part data g) i
      = if i = g.w then putSlot (getSlot g g.w) line ty part data else getSlot g i := by
  rw [ringPutOp_eq]
  exact getSlot_setSlot g g.w _ i hw

/-- Every slot after a take from a ring that is not empty: the one at the read index loses its length
(41_ring R89). -/
theorem getSlot_ringTakeOp {g : Ring} (hr : g.r < g.nslots) (h : g.r ≠ g.w) (i : Nat) :
    getSlot (ringTakeOp g).2 i = if i = g.r then { getSlot g g.r with len := 0#16 } else getSlot g i := by
  rw [ringTakeOp_some h]
  exact getSlot_setSlot g g.r _ i hr

/-- Every slot after `ring_clear()` (41_ring R90). -/
theorem getSlot_ringClear (g : Ring) (i : Nat) : getSlot (ringClear g) i = clearSlot (getSlot g i) := by
  simp only [getSlot, ringClear, List.getElem?_map]
  cases g.slots[i]? <;> rfl

/-- The length field of a put that fits holds the number of its bytes (41_ring R88, 00_scope R7). -/
theorem putSlot_len_toNat {p : Params} (hp : p.ok) {data : List Byte} (hd : data.length ≤ p.payloadMax) (old : Slot)
    (line : Line) (ty : BitVec 8) (part : Bool) : (putSlot old line ty part data).len.toNat = data.length := by
  obtain ⟨-, -, -, -, hmax, -⟩ := hp
  simp only [putSlot, BitVec.toNat_ofNat]
  omega

/-- What was put is what the slot holds (41_ring R88, R89). -/
theorem slotCapture_putSlot {p : Params} (hp : p.ok) {old : Slot} (hold : old.data.wf = true) {c : Capture}
    (hc : c.fits p = true) : slotCapture (putSlot old c.line c.ty c.part c.bytes) = c := by
  simp only [Capture.fits, Bool.and_eq_true, decide_eq_true_eq, beq_iff_eq] at hc
  obtain ⟨hfits, hlen⟩ := hc
  have hbytes : memRead (putSlot old c.line c.ty c.part c.bytes).data 0 c.bytes.length = c.bytes :=
    memRead_memWrite hold 0 c.bytes
  rw [slotCapture, putSlot_len_toNat hp hfits, hbytes]
  simp only [putSlot, ← hlen]

/-! ### RING_PUT in slots and indices -/

/-- Settles O36: the slots are `getSlot_ringPutOp`, the indices and the drop `ringPutOp_eq`. -/
theorem putWritesSlotAndOverwritesOldest : Obligations.PutWritesSlotAndOverwritesOldest := by
  have hnumber : ∀ line ty part d, opcodeNumber (.ringPut line ty part d) = some 0x20 := fun line ty part d =>
    congrArg some (opcodeOf_eq_iff.1 (opcodeOf_wordOf _ _))
  refine ⟨hnumber, fun line ty part d s hp hring hd => ?_, fun line ty part d s hlong =>
    exec_ringPut_of_gt hlong line ty part⟩
  obtain ⟨-, hw, -, hall⟩ := hring
  obtain ⟨-, hwf, -⟩ := hall _ (getSlot_mem hw)
  have hslot := getSlot_ringPutOp hw line ty part d
  have hput : getSlot (ringPutOp line ty part d s.ring) s.ring.w = putSlot (getSlot s.ring s.ring.w) line ty part d :=
    (hslot s.ring.w).trans (if_pos rfl)
  refine ⟨_, exec_ringPut_of_le hd line ty part, rfl, ringPutOp_nslots .., ?_⟩
  dsimp only
  rw [hput]
  refine ⟨putSlot_len_toNat hp hd .., rfl, rfl, rfl, memRead_memWrite hwf 0 d, fun a ha => ?_,
    fun i _ hne => (hslot i).trans (if_neg hne), ?_⟩
  · exact (readByte_memWrite hwf 0 d a).trans (if_neg (by omega))
  · rw [ringPutOp_eq]
    refine ⟨rfl, fun hmeets => ?_, fun hfree => ?_⟩
    · rw [nextIndex, if_pos hmeets, if_pos hmeets, if_pos hmeets]
      exact ⟨rfl, rfl, satInc_toNat _⟩
    · rw [nextIndex, if_neg hfree, if_neg hfree, if_neg hfree]
      exact ⟨rfl, rfl, rfl⟩

/-! ### The reset of the ring -/

/-- Nothing is unread after `ring_clear()` (41_ring R90). -/
theorem unread_ringClear (g : Ring) : unread (ringClear g) = [] := by
  have hcount : ringCount (ringClear g) = 0 := by simp [ringCount, ringClear]
  rw [unread, hcount]
  rfl

/-- Settles O26: the slots are `getSlot_ringClear`; with both indices 0 nothing is unread and a take is the empty one
of `ringTakeOp_empty`. -/
theorem resetCommandEmptiesRing : Obligations.ResetCommandEmptiesRing := by
  have hreject : rejectsOperandFrom 2 1 :=
    rejectsOperandFrom_of_reserved (op := .ctlReset) (k := 0) rfl (by decide) rfl
  exact ⟨rfl, hreject, fun s => ⟨_, rfl, rfl, rfl, rfl, rfl, ringClear_nslots s.ring,
    fun i _ => getSlot_ringClear s.ring i, unread_ringClear s.ring,
    ⟨_, exec_ringTake _, congrArg (OpResult.taken ·.1) (ringTakeOp_empty rfl)⟩, rfl⟩⟩

end Sys2Proof.Machine
end

/-! ## The ring as a queue -/

section
namespace Sys2Proof.Machine

/-! ### The indices of the unread slots -/

section Indices
variable {g : Ring}

/-- The index j places after the read index, written out. -/
theorem unreadIndex_eq (hr : g.r < g.nslots) {j : Nat} (hj : j < g.nslots) :
    unreadIndex g j = if g.r + j < g.nslots then g.r + j else g.r + j - g.nslots := by
  unfold unreadIndex
  split
  · next hlt => exact Nat.mod_eq_of_lt hlt
  · next hge => rw [Nat.mod_eq_sub_mod (by omega), Nat.mod_eq_of_lt (by omega)]

theorem unreadIndex_zero (hr : g.r < g.nslots) : unreadIndex g 0 = g.r := Nat.mod_eq_of_lt hr

/-- The unread slots end where the next put writes (10_state R24). -/
theorem unreadIndex_ringCount (hw : g.w < g.nslots) (hr : g.r < g.nslots) : unreadIndex g (ringCount g) = g.w := by
  rw [unreadIndex_eq hr (ringCount_lt (by omega)), ringCount_eq hw hr]
  split_ifs <;> omega

/-- NSLOTS places from the read index on are all different: no unread slot is the one the next put writes. -/
theorem unreadIndex_inj (hr : g.r < g.nslots) {i j : Nat} (hi : i < g.nslots) (hj : j < g.nslots)
    (h : unreadIndex g i = unreadIndex g j) : i = j := by
  rw [unreadIndex_eq hr hi, unreadIndex_eq hr hj] at h
  split_ifs at h <;> omega

theorem nextIndex_unreadIndex (g : Ring) (j : Nat) : nextIndex g (unreadIndex g j) = unreadIndex g (j + 1) :=
  Nat.mod_add_mod (g.r + j) g.nslots 1

/-- The ring is empty exactly when its indices are equal (10_state R23). -/
theorem ringCount_eq_zero_iff (hw : g.w < g.nslots) (hr : g.r < g.nslots) : ringCount g = 0 ↔ g.w = g.r := by
  rw [ringCount_eq hw hr]
  split <;> omega

/-- The ring is full exactly when the next write index meets the read index (41_ring R91). -/
theorem nextIndex_w_eq_r_iff (hw : g.w < g.nslots) (hr : g.r < g.nslots) :
    nextIndex g g.w = g.r ↔ ringCount g = capacity g := by
  rw [ringCount_eq hw hr, nextIndex_eq hw, capacity]
  split_ifs <;> omega

theorem ringCount_le_capacity (h : 0 < g.nslots) : ringCount g ≤ capacity g := Nat.le_pred_of_lt (ringCount_lt h)

end Indices

/-! ### What a change of the ring does to the queue -/

/-- The read index one place on: the oldest unread capture is given up. -/
def advanceRead (g : Ring) : Ring := { g with r := nextIndex g g.r }

/-- The write index one place on: the slot there is unread. -/
def advanceWrite (g : Ring) : Ring := { g with w := nextIndex g g.w }

section Queue
variable {g : Ring}

theorem unreadIndex_advanceRead (g : Ring) (j : Nat) : unreadIndex (advanceRead g) j = unreadIndex g (j + 1) := by
  have hsum : g.r + 1 + j = g.r + (j + 1) := by omega
  exact (Nat.mod_add_mod _ _ _).trans (congrArg (· % g.nslots) hsum)

theorem ringCount_advanceRead (hw : g.w < g.nslots) (hr : g.r < g.nslots) (h : g.r ≠ g.w) :
    ringCount g = ringCount (advanceRead g) + 1 := by
  have hpos : 0 < g.nslots := by omega
  have hr' : (advanceRead g).r < (advanceRead g).nslots := nextIndex_lt hpos g.r
  have hne : ringCount g ≠ 0 := fun h0 => h ((ringCount_eq_zero_iff hw hr).1 h0).symm
  obtain ⟨n, hn⟩ := Nat.exists_eq_succ_of_ne_zero hne
  have hlt := ringCount_lt hpos
  have hend : unreadIndex (advanceRead g) n = g.w := by
    rw [unreadIndex_advanceRead, ← Nat.succ_eq_add_one, ← hn, unreadIndex_ringCount hw hr]
  rw [hn, unreadIndex_inj hr' (show n < g.nslots by omega) (ringCount_lt (g := advanceRead g) hpos)
    (hend.trans (unreadIndex_ringCount (g := advanceRead g) hw hr').symm)]

theorem ringCount_advanceWrite (hw : g.w < g.nslots) (hr : g.r < g.nslots) (h : nextIndex g g.w ≠ g.r) :
    ringCount (advanceWrite g) = ringCount g + 1 := by
  have hpos : 0 < g.nslots := by omega
  have hw' : (advanceWrite g).w < (advanceWrite g).nslots := nextIndex_lt hpos g.w
  have hend : unreadIndex g (ringCount g + 1) = nextIndex g g.w := by
    rw [← nextIndex_unreadIndex, unreadIndex_ringCount hw hr]
  have hroom : ringCount g + 1 < g.nslots := by
    have hle := ringCount_le_capacity hpos
    have hfull := mt (nextIndex_w_eq_r_iff hw hr).2 h
    unfold capacity at hle hfull
    omega
  exact unreadIndex_inj (g := advanceWrite g) hr (ringCount_lt (g := advanceWrite g) hpos) hroom
    ((unreadIndex_ringCount (g := advanceWrite g) hw' hr).trans hend.symm)

/-- The oldest unread capture is the one at the read index, and the others are those from the next index on
(10_state R24). -/
theorem unread_eq_cons (hw : g.w < g.nslots) (hr : g.r < g.nslots) (h : g.r ≠ g.w) :
    unread g = slotCapture (getSlot g g.r) :: unread (advanceRead g) := by
  have hrest : ∀ j, slotCapture (getSlot (advanceRead g) (unreadIndex (advanceRead g) j))
      = slotCapture (getSlot g (unreadIndex g (j + 1))) := fun j => by rw [unreadIndex_advanceRead]; rfl
  simp only [unread, ringCount_advanceRead hw hr h, List.range_succ_eq_map, List.map_cons, List.map_map,
    unreadIndex_zero hr, hrest]
  rfl

/-- The slot at the write index becomes the newest unread capture when the index moves on (10_state R24). -/
theorem unread_advanceWrite (hw : g.w < g.nslots) (hr : g.r < g.nslots) (h : nextIndex g g.w ≠ g.r) :
    unread (advanceWrite g) = unread g ++ [slotCapture (getSlot g g.w)] := by
  rw [unread, ringCount_advanceWrite hw hr h, List.range_succ, List.map_append, List.map_singleton]
  have hlast : unreadIndex (advanceWrite g) (ringCount g) = g.w := unreadIndex_ringCount hw hr
  rw [hlast]
  rfl

/-- The queue is made of the slots and the indices only. -/
theorem unread_congr {g' : Ring} (hslots : g'.slots = g.slots) (hw : g'.w = g.w) (hr : g'.r = g.r) :
    unread g' = unread g := by
  simp only [unread, ringCount, unreadIndex, getSlot, Ring.nslots, hslots, hw, hr]

/-- Writing a slot that is not unread leaves the queue. -/
theorem unread_setSlot {i : Nat} (hi : i < g.nslots) (v : Slot) (h : ∀ j, j < ringCount g → unreadIndex g j ≠ i) :
    unread (setSlot g i v) = unread g := by
  have hcount : ringCount (setSlot g i v) = ringCount g := by simp [ringCount]
  have hindex : ∀ j, unreadIndex (setSlot g i v) j = unreadIndex g j := fun j => by simp [unreadIndex]
  rw [unread, unread, hcount]
  refine List.map_congr_left fun j hj => ?_
  rw [hindex, getSlot_setSlot g i v _ hi, if_neg (h j (List.mem_range.1 hj))]

/-- Writing the slot at the write index leaves the queue. -/
theorem unread_setSlot_w (hw : g.w < g.nslots) (hr : g.r < g.nslots) (v : Slot) :
    unread (setSlot g g.w v) = unread g := by
  have hpos : 0 < g.nslots := by omega
  refine unread_setSlot hw v fun j hj heq => ?_
  rw [← unreadIndex_ringCount hw hr] at heq
  exact hj.ne (unreadIndex_inj hr (hj.trans (ringCount_lt hpos)) (ringCount_lt hpos) heq)

/-- Writing the slot at the write index and moving that index on appends what was written. -/
theorem unread_eq_append_of_set {g' : Ring} (hw : g.w < g.nslots) (hr : g.r < g.nslots) (h : nextIndex g g.w ≠ g.r)
    {v : Slot} (hslots : g'.slots = g.slots.set g.w v) (hw' : g'.w = nextIndex g g.w) (hr' : g'.r = g.r) :
    unread g' = unread g ++ [slotCapture v] := by
  have hn : (setSlot g g.w v).nslots = g.nslots := setSlot_nslots ..
  have hnext : nextIndex (setSlot g g.w v) g.w = nextIndex g g.w := by rw [nextIndex, hn, nextIndex]
  calc unread g'
    _ = unread (advanceWrite (setSlot g g.w v)) := unread_congr hslots (hw'.trans hnext.symm) hr'
    _ = unread (setSlot g g.w v) ++ [slotCapture (getSlot (setSlot g g.w v) g.w)] :=
      unread_advanceWrite (hn ▸ hw) (hn ▸ hr) (hnext ▸ h)
    _ = unread g ++ [slotCapture v] := by
      rw [unread_setSlot_w hw hr, getSlot_setSlot g g.w v g.w hw, if_pos rfl]

/-- Nothing is unread exactly when the indices are equal (10_state R23). -/
theorem unread_eq_nil_iff (hw : g.w < g.nslots) (hr : g.r < g.nslots) : unread g = [] ↔ g.w = g.r := by
  rw [← List.length_eq_zero_iff, unread_length, ringCount_eq_zero_iff hw hr]

/-- A take from a ring that is not empty removes the oldest unread capture (41_ring R89, R92). -/
theorem unread_eq_cons_ringTakeOp (hw : g.w < g.nslots) (hr : g.r < g.nslots) (h : g.r ≠ g.w) :
    unread g = slotCapture (getSlot g g.r) :: unread (ringTakeOp g).2 := by
  have hr' : (advanceRead g).r < g.nslots := nextIndex_lt (by omega) g.r
  have hcount := ringCount_advanceRead hw hr h
  have hlt : ringCount g < g.nslots := ringCount_lt (by omega)
  have houtside : ∀ j, j < ringCount (advanceRead g) → unreadIndex (advanceRead g) j ≠ g.r := by
    intro j hj heq
    rw [unreadIndex_advanceRead, ← unreadIndex_zero hr] at heq
    exact Nat.succ_ne_zero j (unreadIndex_inj hr (by omega) (by omega) heq)
  have htake : (ringTakeOp g).2 = setSlot (advanceRead g) g.r { getSlot g g.r with len := 0#16 } := by
    rw [ringTakeOp_some h]
    rfl
  rw [htake, unread_setSlot (g := advanceRead g) hr _ houtside]
  exact unread_eq_cons hw hr h

/-- A put appends what it wrote, and a full ring gives up its oldest unread capture (41_ring R88, R91, R98). -/
theorem unread_ringPutOp (htwo : 2 ≤ g.nslots) (hw : g.w < g.nslots) (hr : g.r < g.nslots) (line : Line)
    (ty : BitVec 8) (part : Bool) (data : List Byte) :
    unread (ringPutOp line ty part data g)
      = (if ringCount g = capacity g then (unread g).tail else unread g)
        ++ [slotCapture (putSlot (getSlot g g.w) line ty part data)] := by
  simp only [← nextIndex_w_eq_r_iff hw hr]
  rw [ringPutOp]
  generalize putSlot (getSlot g g.w) line ty part data = v
  split
  · next hfull =>
    have hne : g.r ≠ g.w := by
      rw [nextIndex_eq hw] at hfull
      split at hfull <;> omega
    have hr' : (advanceRead g).r < (advanceRead g).nslots := nextIndex_lt (by omega) g.r
    have hfree : nextIndex (advanceRead g) g.w ≠ (advanceRead g).r := by
      change nextIndex g g.w ≠ nextIndex g g.r
      rw [hfull, nextIndex_eq hr]
      split <;> omega
    rw [unread_eq_cons hw hr hne, List.tail_cons]
    exact unread_eq_append_of_set (g := advanceRead g) hw hr' hfree rfl rfl rfl
  · next hfree => exact unread_eq_append_of_set hw hr hfree rfl rfl rfl

end Queue

/-! ### A put and a take on the queue -/

/-- The RING_PUT of a capture, on the ring. -/
def putOp (c : Capture) (g : Ring) : Ring := ringPutOp c.line c.ty c.part c.bytes g

/-- A put of a capture that fits changes the ring only (41_ring R88). -/
theorem exec_putOf {c : Capture} {s : State} (hc : c.fits s.params = true) :
    exec (putOf c) s = .next { s with ring := putOp c s.ring } := by
  simp only [Capture.fits, Bool.and_eq_true, decide_eq_true_eq] at hc
  exact exec_ringPut_of_le hc.1 c.line c.ty c.part

theorem ringOk_putOp {p : Params} {g : Ring} {c : Capture} (hg : ringOk p g) (hc : c.fits p = true) :
    ringOk p (putOp c g) := by
  simp only [Capture.fits, Bool.and_eq_true, decide_eq_true_eq] at hc
  exact ringOk_ringPutOp hg c.line c.ty c.part hc.1

/-- The queue after a put of a capture (41_ring R91). -/
theorem unread_putOp {p : Params} {g : Ring} {c : Capture} (hp : p.ok) (hg : ringOk p g) (hc : c.fits p = true) :
    unread (putOp c g) = queueAfterPut g c := by
  obtain ⟨htwo, hw, hr, hall⟩ := hg
  obtain ⟨-, hwf, -⟩ := hall _ (getSlot_mem hw)
  rw [putOp, unread_ringPutOp htwo hw hr, slotCapture_putSlot hp hwf hc, queueAfterPut, unread_length]

/-- Settles O37: the queue is `unread_putOp`. -/
theorem putAppendsToQueue : Obligations.PutAppendsToQueue := by
  intro c s hp hring hc
  have hpos : 0 < s.ring.nslots := Nat.zero_lt_of_lt hring.1
  exact ⟨_, exec_putOf hc, unread_putOp hp hring hc, by rw [unread_length]; exact ringCount_le_capacity hpos⟩

/-- What a take from a ring with unread captures hands over and leaves (41_ring R89). -/
theorem ringTakeOp_of_unread_eq_cons {p : Params} {g : Ring} {c : Capture} {cs : List Capture} (hg : ringOk p g)
    (h : unread g = c :: cs) :
    g.r ≠ g.w ∧ (ringTakeOp g).1 = some c ∧ unread (ringTakeOp g).2 = cs := by
  obtain ⟨-, hw, hr, -⟩ := hg
  have hne : g.r ≠ g.w := fun heq => by
    rw [(unread_eq_nil_iff hw hr).2 heq.symm] at h
    cases h
  rw [unread_eq_cons_ringTakeOp hw hr hne] at h
  obtain ⟨hhead, htail⟩ := List.cons.inj h
  exact ⟨hne, by rw [ringTakeOp_some hne, hhead], htail⟩

/-- Settles O38: the capture and the queue are `ringTakeOp_of_unread_eq_cons`, the slots `getSlot_ringTakeOp`. -/
theorem takeRemovesOldest : Obligations.TakeRemovesOldest := by
  refine ⟨rfl, fun c cs s hring hqueue => ?_, fun s hempty => ?_, fun s hring => ?_⟩
  · obtain ⟨hne, hsome, hrest⟩ := ringTakeOp_of_unread_eq_cons hring hqueue
    obtain ⟨hlen, -⟩ := ringTakeOp_capture_fits hring hsome
    obtain ⟨-, -, hr, -⟩ := hring
    have hslot := getSlot_ringTakeOp hr hne
    refine ⟨_, exec_ringTake s, by rw [hsome], hrest, hlen, (hslot _).trans (if_pos rfl),
      fun i _ hi => (hslot i).trans (if_neg hi), ?_, ringTakeOp_w _, ringTakeOp_lostPending _, ringTakeOp_drops _,
      by rw [hsome]⟩
    dsimp only
    rw [ringTakeOp_some hne]
    rfl
  · rw [exec_ringTake, ringTakeOp_empty hempty.symm]
  · obtain ⟨-, hw, hr, -⟩ := hring
    exact unread_eq_nil_iff hw hr

end Sys2Proof.Machine
end

/-! ## Many puts, then as many takes -/

section
namespace Sys2Proof.Machine

/-! ### The newest of a list -/

/-- Keeping the newest k twice is keeping them once. -/
theorem rtake_rtake_append {α : Type} (l m : List α) (k : Nat) : (l.rtake k ++ m).rtake k = (l ++ m).rtake k := by
  unfold List.rtake
  rw [← List.drop_append_of_le_length (by omega), List.drop_drop]
  congr 1
  simp only [List.length_drop, List.length_append]
  omega

theorem rtake_of_length_le {α : Type} {l : List α} {k : Nat} (h : l.length ≤ k) : l.rtake k = l := by
  rw [List.rtake, Nat.sub_eq_zero_of_le h, List.drop_zero]

theorem length_rtake {α : Type} (l : List α) (k : Nat) : (l.rtake k).length = min l.length k := by
  rw [List.rtake, List.length_drop]
  omega

/-- The queue after a put holds the newest CAPACITY of the captures before it and the new one (41_ring R91). -/
theorem queueAfterPut_eq_rtake {g : Ring} (h : 2 ≤ g.nslots) (c : Capture) :
    queueAfterPut g c = (unread g ++ [c]).rtake (capacity g) := by
  obtain ⟨k, hk⟩ : ∃ k, capacity g = k + 1 := ⟨g.nslots - 2, by unfold capacity; omega⟩
  have hle : (unread g).length ≤ k + 1 := by
    rw [unread_length, ← hk]
    exact ringCount_le_capacity (by omega)
  rw [queueAfterPut, hk, List.rtake_concat_succ]
  split
  · next hfull => rw [List.rtake, hfull, Nat.add_sub_cancel_left, List.drop_one]
  · next hfree => rw [rtake_of_length_le (by omega)]

/-! ### Many puts -/

/-- The RING_PUTs of captures one after another, on the ring. -/
def putAll : List Capture → Ring → Ring
  | [], g => g
  | c :: cs, g => putAll cs (putOp c g)

/-- Captures that fit are all put (41_ring R88). -/
theorem runInstrs_map_putOf {cs : List Capture} {s : State} (hcs : ∀ c ∈ cs, c.fits s.params = true) :
    runInstrs (cs.map putOf) s = .next { s with ring := putAll cs s.ring } := by
  induction cs generalizing s with
  | nil => rfl
  | cons c cs ih =>
    obtain ⟨hc, hcs⟩ := List.forall_mem_cons.1 hcs
    rw [List.map_cons, runInstrs_cons_of_next (exec_putOf hc)]
    exact ih hcs

section Puts
variable {p : Params} {g : Ring} {c : Capture} {cs : List Capture}

@[simp] theorem putOp_capacity (c : Capture) (g : Ring) : capacity (putOp c g) = capacity g :=
  congrArg (· - 1) (ringPutOp_nslots ..)

/-- How many captures are unread after a put (41_ring R91). -/
theorem ringCount_putOp (hp : p.ok) (hg : ringOk p g) (hc : c.fits p = true) :
    ringCount (putOp c g) = min (ringCount g + 1) (capacity g) := by
  rw [← unread_length, unread_putOp hp hg hc, queueAfterPut_eq_rtake hg.1, length_rtake, List.length_append,
    unread_length, List.length_singleton]

/-- A put counts a drop exactly when the ring is full (41_ring R88). -/
theorem drops_putOp (hg : ringOk p g) (c : Capture) :
    (putOp c g).drops.toNat = min (g.drops.toNat + (ringCount g + 1 - capacity g)) (2 ^ 32 - 1) := by
  obtain ⟨-, hw, hr, -⟩ := hg
  have hle : ringCount g ≤ capacity g := ringCount_le_capacity (by omega)
  have hmax := g.drops.isLt
  simp only [putOp, ringPutOp_eq, nextIndex_w_eq_r_iff hw hr]
  split
  · next hfull => rw [satInc_toNat, hfull, Nat.add_sub_cancel_left]
  · next hfree => omega

/-- A put sets lost_pending when the ring is full (41_ring R88). -/
theorem lostPending_putOp (hg : ringOk p g) (c : Capture) :
    (putOp c g).lostPending = (g.lostPending || decide (capacity g < ringCount g + 1)) := by
  obtain ⟨-, hw, hr, -⟩ := hg
  have hle : ringCount g ≤ capacity g := ringCount_le_capacity (by omega)
  simp only [putOp, ringPutOp_eq, nextIndex_w_eq_r_iff hw hr]
  split
  · next hfull => simp [hfull]
  · next hfree => simp [show ¬ capacity g < ringCount g + 1 by omega]

theorem ringOk_putAll (hg : ringOk p g) (hcs : ∀ c ∈ cs, c.fits p = true) : ringOk p (putAll cs g) := by
  induction cs generalizing g with
  | nil => exact hg
  | cons c cs ih =>
    obtain ⟨hc, hcs⟩ := List.forall_mem_cons.1 hcs
    exact ih (ringOk_putOp hg hc) hcs

/-- The newest CAPACITY captures are unread (41_ring R94, R95). -/
theorem unread_putAll (hp : p.ok) (hg : ringOk p g) (hcs : ∀ c ∈ cs, c.fits p = true) :
    unread (putAll cs g) = (unread g ++ cs).rtake (capacity g) := by
  induction cs generalizing g with
  | nil =>
    have hpos : 0 < g.nslots := Nat.zero_lt_of_lt hg.1
    rw [List.append_nil, rtake_of_length_le (by rw [unread_length]; exact ringCount_le_capacity hpos)]
    rfl
  | cons c cs ih =>
    obtain ⟨hc, hcs⟩ := List.forall_mem_cons.1 hcs
    rw [putAll, ih (ringOk_putOp hg hc) hcs, unread_putOp hp hg hc, queueAfterPut_eq_rtake hg.1, putOp_capacity,
      rtake_rtake_append, List.append_assoc, List.singleton_append]

/-- Every capture for which there is no room drops one, and is counted (41_ring R95). -/
theorem drops_putAll (hp : p.ok) (hg : ringOk p g) (hcs : ∀ c ∈ cs, c.fits p = true) :
    (putAll cs g).drops.toNat = min (g.drops.toNat + (ringCount g + cs.length - capacity g)) (2 ^ 32 - 1) := by
  have hle : ringCount g ≤ capacity g := ringCount_le_capacity (Nat.zero_lt_of_lt hg.1)
  induction cs generalizing g with
  | nil =>
    have hmax := g.drops.isLt
    rw [putAll, List.length_nil]
    omega
  | cons c cs ih =>
    obtain ⟨hc, hcs⟩ := List.forall_mem_cons.1 hcs
    have hg' := ringOk_putOp hg hc
    rw [putAll, ih hg' hcs (ringCount_le_capacity (Nat.zero_lt_of_lt hg'.1)), drops_putOp hg, putOp_capacity,
      ringCount_putOp hp hg hc, List.length_cons]
    omega

/-- lost_pending is set as soon as there is no room for a capture (41_ring R95). -/
theorem lostPending_putAll (hp : p.ok) (hg : ringOk p g) (hcs : ∀ c ∈ cs, c.fits p = true) :
    (putAll cs g).lostPending = (g.lostPending || decide (capacity g < ringCount g + cs.length)) := by
  have hle : ringCount g ≤ capacity g := ringCount_le_capacity (Nat.zero_lt_of_lt hg.1)
  induction cs generalizing g with
  | nil => simp [putAll, hle]
  | cons c cs ih =>
    obtain ⟨hc, hcs⟩ := List.forall_mem_cons.1 hcs
    have hg' := ringOk_putOp hg hc
    rw [putAll, ih hg' hcs (ringCount_le_capacity (Nat.zero_lt_of_lt hg'.1)), lostPending_putOp hg, putOp_capacity,
      ringCount_putOp hp hg hc, List.length_cons, Bool.or_assoc, ← Bool.decide_or]
    congr 2
    exact propext (by omega)

end Puts

/-! ### Many takes -/

/-- The first of the takes answers what the ring hands over, the others what it then does. -/
theorem takeResults_succ (n : Nat) (s : State) :
    takeResults (n + 1) s = .taken (ringTakeOp s.ring).1 ::
      takeResults n
        { s with ring := (ringTakeOp s.ring).2, env := { s.env with opResult := .taken (ringTakeOp s.ring).1 } } := rfl

/-- As many takes as there are unread captures answer them in order, and one more answers Empty (41_ring R89, R92). -/
theorem takeResults_of_unread {cs : List Capture} {s : State} (hs : ringOk s.params s.ring)
    (h : unread s.ring = cs) :
    takeResults (cs.length + 1) s = cs.map (fun c => .taken (some c)) ++ [.taken none] := by
  induction cs generalizing s with
  | nil =>
    obtain ⟨-, hw, hr, -⟩ := hs
    rw [takeResults_succ, ringTakeOp_empty ((unread_eq_nil_iff hw hr).1 h).symm]
    rfl
  | cons c cs ih =>
    obtain ⟨-, hsome, hrest⟩ := ringTakeOp_of_unread_eq_cons hs h
    rw [List.length_cons, takeResults_succ, hsome, ih (ringOk_ringTakeOp hs) hrest]
    rfl

/-! ### The ring from empty -/

/-- Settles O39: no capture is given up, so the queue is the list (`unread_putAll`) and the takes answer it
(`takeResults_of_unread`). -/
theorem ringIsFifoWithoutOverflow : Obligations.RingIsFifoWithoutOverflow := by
  intro cs s hp hring hempty hcs hle
  have ⟨_, hw, hr, _⟩ := hring
  have hcount := (ringCount_eq_zero_iff hw hr).2 hempty
  have hqueue : unread (putAll cs s.ring) = cs := by
    rw [unread_putAll hp hring hcs, (unread_eq_nil_iff hw hr).2 hempty, List.nil_append, rtake_of_length_le hle]
  refine ⟨_, runInstrs_map_putOf hcs, takeResults_of_unread (ringOk_putAll hring hcs) hqueue,
    BitVec.eq_of_toNat_eq ?_, ?_⟩
  · have hmax := s.ring.drops.isLt
    rw [drops_putAll hp hring hcs, hcount]
    omega
  · rw [lostPending_putAll hp hring hcs, hcount, decide_eq_false (by omega), Bool.or_false]

/-- Settles O40: the queue is the newest CAPACITY of the list (`unread_putAll`), the others are counted
(`drops_putAll`). -/
theorem overflowDropsExactlyTheOldest : Obligations.OverflowDropsExactlyTheOldest := by
  intro cs s hp hring hempty hcs hlt
  have ⟨_, hw, hr, _⟩ := hring
  have hcount := (ringCount_eq_zero_iff hw hr).2 hempty
  have hqueue : unread (putAll cs s.ring) = cs.rtake (capacity s.ring) := by
    rw [unread_putAll hp hring hcs, (unread_eq_nil_iff hw hr).2 hempty, List.nil_append]
  have hlength : (cs.rtake (capacity s.ring)).length = capacity s.ring := by
    rw [length_rtake, Nat.min_eq_right hlt.le]
  refine ⟨_, runInstrs_map_putOf hcs, ?_, ?_, ?_⟩
  · have htakes := takeResults_of_unread (s := { s with ring := putAll cs s.ring }) (ringOk_putAll hring hcs) hqueue
    rwa [hlength] at htakes
  · rw [drops_putAll hp hring hcs, hcount, Nat.zero_add]
  · rw [lostPending_putAll hp hring hcs, hcount, decide_eq_true (by omega), Bool.or_true]

end Sys2Proof.Machine
end

/-! ## The Capture Producer -/

section
namespace Sys2Proof.Machine

/-! ### A cleared byte space -/

/-- An offset at or beyond the size of a space reads as 0. -/
theorem readByte_eq_zero_of_within {n : Nat} {m : Memory} (h : m.within n = true) {i : Nat} (hi : n ≤ i) :
    readByte m i = 0#8 := by
  induction m with
  | nil => rfl
  | cons c rest ih =>
    obtain ⟨a, b⟩ := c
    simp only [Memory.within, List.all_cons, Bool.and_eq_true, decide_eq_true_eq] at h ih
    obtain ⟨ha, hrest⟩ := h
    rw [readByte, if_neg (by omega), ih hrest]

/-- The whole cleared space reads as 0 (42_producer R101). -/
theorem readByte_memZero_of_within {n : Nat} {m : Memory} (h : m.within n = true) (a : Nat) :
    readByte (memZero m 0 n) a = 0#8 := by
  rw [readByte_memZero]
  split
  · rfl
  · exact readByte_eq_zero_of_within h (by omega)

/-! ### Capture-port words -/

/-- A capture-port word of an operation with a bit of [31:16] set is ignored (42_producer R100 to R103). -/
theorem ignoresReservedBits_of_reserved {op : Op} (hport : (rowOfOp op).port = .capture)
    (hmask : (rowOfOp op).reserved = fieldMask 16 16) : ignoresReservedBits (rowOfOp op).opcode.toNat := by
  intro s w hturn hopcode hwide
  have hres : w &&& (rowOfOp op).reserved ≠ 0#32 := by
    rw [hmask, Ne, and_highMask_eq_zero_iff (k := 8) (by decide)]
    exact Nat.not_lt.2 hwide
  have hdec := decodeAt_of_reserved (opcodeOf_eq_iff.2 hopcode) hres []
  rw [hport] at hdec
  simp only [step_eq, hturn, hdec]

/-! ### CAP_BYTE -/

/-- A CAP_BYTE below PAYLOAD_MAX changes the capture buffer only (42_producer R100). -/
theorem exec_capByte_of_lt {s : State} (h : s.cap.len.toNat < s.params.payloadMax) (b : Byte) :
    exec (.capByte b) s
      = .next { s with cap := { bytes := writeByte s.cap.bytes s.cap.len.toNat b, len := s.cap.len + 1#16 } } :=
  if_pos h

/-- A CAP_BYTE at PAYLOAD_MAX is discarded (42_producer R100). -/
theorem exec_capByte_of_ge {s : State} (h : s.params.payloadMax ≤ s.cap.len.toNat) (b : Byte) :
    exec (.capByte b) s = .next s := if_neg (Nat.not_lt.2 h)

/-- The capture buffer's count does not wrap below PAYLOAD_MAX, which is at most 65535 (00_scope R7). -/
theorem len_add_one_toNat {p : Params} (hp : p.ok) {len : Half} (h : len.toNat < p.payloadMax) :
    (len + 1#16).toNat = len.toNat + 1 := by
  obtain ⟨-, -, -, -, hmax, -⟩ := hp
  exact BitVec.toNat_add_of_lt (by rw [BitVec.toNat_ofNat]; omega)

/-- Settles O42: the bytes are `readByte_writeByte`, the count `len_add_one_toNat`. -/
theorem capByteAppendsOrDiscards : Obligations.CapByteAppendsOrDiscards := by
  have hnumber : ∀ b, opcodeNumber (.capByte b) = some 0x10 := fun b =>
    congrArg some (opcodeOf_eq_iff.1 (opcodeOf_wordOf _ _))
  refine ⟨hnumber, ignoresReservedBits_of_reserved (op := .capByte) rfl (by decide), fun b s hp hcap hlt => ?_,
    fun b s hfull => exec_capByte_of_ge hfull b⟩
  obtain ⟨-, hwf, -⟩ := hcap
  have hread := readByte_writeByte hwf s.cap.len.toNat b
  exact ⟨_, exec_capByte_of_lt hlt b, len_add_one_toNat hp hlt, (hread _).trans (if_pos rfl),
    fun a hne => (hread a).trans (if_neg hne), rfl⟩

/-! ### The put of a producer event

PAYLOAD_MAX need not be within its constraints here: the length of what is put is the capture buffer's count, which is
a 16-bit value already. -/

/-- What was put is what the slot holds, whatever the parameters are, if its length field is its number of bytes
(41_ring R88, R89). -/
theorem slotCapture_putSlot_of_length {old : Slot} (hold : old.data.wf = true) {c : Capture}
    (hc : c.bytes.length = c.len.toNat) : slotCapture (putSlot old c.line c.ty c.part c.bytes) = c := by
  have hlen : (putSlot old c.line c.ty c.part c.bytes).len = c.len := by
    simp only [putSlot, hc, BitVec.ofNat_toNat, BitVec.setWidth_eq]
  have hbytes : memRead (putSlot old c.line c.ty c.part c.bytes).data 0 c.bytes.length = c.bytes :=
    memRead_memWrite hold 0 c.bytes
  rw [slotCapture, hlen, ← hc, hbytes]
  rfl

section Event
variable {g : Ring} {c : Capture} {s : State}

/-- The queue after such a put (41_ring R91). -/
theorem unread_putOp_of_length {p : Params} (hg : ringOk p g) (hc : c.bytes.length = c.len.toNat) :
    unread (putOp c g) = queueAfterPut g c := by
  obtain ⟨htwo, hw, hr, hall⟩ := hg
  obtain ⟨-, hwf, -⟩ := hall _ (getSlot_mem hw)
  rw [putOp, unread_ringPutOp htwo hw hr, slotCapture_putSlot_of_length hwf hc, queueAfterPut, unread_length]

/-- After such a put a capture is pending (10_state R23). -/
theorem putOp_w_ne_r {p : Params} (hg : ringOk p g) (hfits : c.fits p = true)
    (hc : c.bytes.length = c.len.toNat) : (putOp c g).w ≠ (putOp c g).r := by
  obtain ⟨-, hw', hr', -⟩ := ringOk_putOp hg hfits
  rw [Ne, ← unread_eq_nil_iff hw' hr', unread_putOp_of_length hg hc, queueAfterPut]
  exact List.append_ne_nil_of_right_ne_nil _ (List.cons_ne_nil c [])

/-- A put writes no slot but the one at the write index (41_ring R88). -/
theorem getSlot_putOp_of_ne {p : Params} (hg : ringOk p g) (c : Capture) {i : Nat} (hi : i ≠ g.w) :
    getSlot (putOp c g) i = getSlot g i := by
  obtain ⟨-, hw, -, -⟩ := hg
  exact (getSlot_ringPutOp hw c.line c.ty c.part c.bytes i).trans (if_neg hi)

/-- A put into a full ring loses a capture and counts it (41_ring R88, R91). -/
theorem putOp_of_full {p : Params} (hg : ringOk p g) (c : Capture) (h : (unread g).length = capacity g) :
    (putOp c g).lostPending = true ∧ (putOp c g).drops.toNat = min (g.drops.toNat + 1) (2 ^ 32 - 1) := by
  rw [unread_length] at h
  rw [lostPending_putOp hg, drops_putOp hg, h, Nat.add_sub_cancel_left, decide_eq_true (Nat.lt_succ_self _),
    Bool.or_true]
  exact ⟨rfl, rfl⟩

/-- A put into a ring that is not full loses none (41_ring R88, R91). -/
theorem putOp_of_not_full {p : Params} (hg : ringOk p g) (c : Capture) (h : (unread g).length ≠ capacity g) :
    (putOp c g).lostPending = g.lostPending ∧ (putOp c g).drops = g.drops := by
  have ⟨_, hw, hr, _⟩ := hg
  rw [unread_length, Ne, ← nextIndex_w_eq_r_iff hw hr] at h
  rw [putOp, ringPutOp_eq, if_neg h, if_neg h, if_neg h]
  exact ⟨rfl, rfl⟩

/-! ### The producer event -/

/-- The capture a producer event enqueues: the accumulated bytes under the active line (42_producer R101). -/
def accumulated (ty : BitVec 8) (part : Bool) (s : State) : Capture :=
  { line := s.telem.active, ty := ty, part := part, len := s.cap.len
    bytes := memRead s.cap.bytes 0 s.cap.len.toNat }

/-- Its length field is its number of bytes. -/
theorem accumulated_bytes_length (ty : BitVec 8) (part : Bool) (s : State) :
    (accumulated ty part s).bytes.length = (accumulated ty part s).len.toNat := memRead_length ..

theorem accumulated_fits (hcap : capOk s.params s.cap) (ty : BitVec 8) (part : Bool) :
    (accumulated ty part s).fits s.params = true := by
  obtain ⟨hle, -, -⟩ := hcap
  simp [Capture.fits, accumulated, hle]

/-- A producer event puts what was accumulated, clears the buffer, stops and re-arms the capture path around the put
and sets the wake latch where asked (42_producer R101). -/
theorem producerEvent_of_capOk (hcap : capOk s.params s.cap) (ty : BitVec 8) (part signal : Bool) :
    producerEvent ty part signal s = .next
      { s with
        ring := putOp (accumulated ty part s) s.ring
        cap := { bytes := memZero s.cap.bytes 0 s.params.payloadMax, len := 0#16 }
        framer := { s.framer with wake := s.framer.wake || signal }
        out := s.out ++ [.captureStop, .captureRearm] } := by
  obtain ⟨hle, -, -⟩ := hcap
  rw [producerEvent_eq, if_neg (Nat.not_lt.2 hle), List.append_assoc]
  rfl

/-- EV_RX_COMPLETE asks for the wake latch (42_producer R102). -/
theorem exec_evRxComplete (hcap : capOk s.params s.cap) (ty : BitVec 8) :
    exec (.evRxComplete ty) s = .next
      { s with
        ring := putOp (accumulated ty false s) s.ring
        cap := { bytes := memZero s.cap.bytes 0 s.params.payloadMax, len := 0#16 }
        framer := { s.framer with wake := true }
        out := s.out ++ [.captureStop, .captureRearm] } := by
  have h := producerEvent_of_capOk hcap ty false true
  rwa [Bool.or_true] at h

/-- EV_RX_ERROR does not (42_producer R103). -/
theorem exec_evRxError (hcap : capOk s.params s.cap) (ty : BitVec 8) :
    exec (.evRxError ty) s = .next
      { s with
        ring := putOp (accumulated ty true s) s.ring
        cap := { bytes := memZero s.cap.bytes 0 s.params.payloadMax, len := 0#16 }
        out := s.out ++ [.captureStop, .captureRearm] } := by
  have h := producerEvent_of_capOk hcap ty true false
  rwa [Bool.or_false] at h

end Event

/-- Settles O43: the put is that of the accumulated capture (`exec_evRxComplete`), and what it does to the ring is
said by the lemmas about `putOp`. -/
theorem rxCompleteEnqueuesAndWakes : Obligations.RxCompleteEnqueuesAndWakes := by
  have hnumber : ∀ ty, opcodeNumber (.evRxComplete ty) = some 0x11 := fun ty =>
    congrArg some (opcodeOf_eq_iff.1 (opcodeOf_wordOf _ _))
  refine ⟨hnumber, ignoresReservedBits_of_reserved (op := .evRxComplete) rfl (by decide), fun ty s hring hcap => ?_⟩
  have ⟨_, _, hin⟩ := hcap
  have hfits := accumulated_fits hcap ty false
  have hlen := accumulated_bytes_length ty false s
  exact ⟨_, exec_evRxComplete hcap ty, ⟨_, exec_putOf hfits, rfl⟩, unread_putOp_of_length hring hlen,
    putOp_w_ne_r hring hfits hlen, fun _ _ hi => getSlot_putOp_of_ne hring _ hi, putOp_of_full hring _,
    putOp_of_not_full hring _, rfl, readByte_memZero_of_within hin, rfl⟩

/-- Settles O44: as O43, with the partial flag and without the wake latch (`exec_evRxError`). -/
theorem rxErrorEnqueuesPartial : Obligations.RxErrorEnqueuesPartial := by
  have hnumber : ∀ ty, opcodeNumber (.evRxError ty) = some 0x12 := fun ty =>
    congrArg some (opcodeOf_eq_iff.1 (opcodeOf_wordOf _ _))
  refine ⟨hnumber, ignoresReservedBits_of_reserved (op := .evRxError) rfl (by decide), fun ty s hring hcap => ?_⟩
  have ⟨_, _, hin⟩ := hcap
  have hfits := accumulated_fits hcap ty true
  have hlen := accumulated_bytes_length ty true s
  exact ⟨_, exec_evRxError hcap ty, ⟨_, exec_putOf hfits, rfl⟩, unread_putOp_of_length hring hlen,
    fun _ _ hi => getSlot_putOp_of_ne hring _ hi, putOp_of_full hring _, putOp_of_not_full hring _, rfl,
    readByte_memZero_of_within hin, rfl⟩

end Sys2Proof.Machine
end

/-! ## The framer: fields of the packet buffer -/

section
namespace Sys2Proof.Machine

/-! ### Little-endian fields -/

/-- A 16-bit field read byte by byte is its little-endian bytes (20_memory R50). -/
theorem memRead_two_eq_le16 (m : Memory) (addr : Nat) : memRead m addr 2 = le16 (readHalf m addr) := by
  have hhigh : (readHalf m addr).extractLsb' 8 8 = readByte m (addr + 1) := by
    rw [readHalf, BitVec.extractLsb'_append_eq_of_le (Nat.le_refl 8), BitVec.extractLsb'_eq_self]
  have hlow : (readHalf m addr).extractLsb' 0 8 = readByte m addr := BitVec.extractLsb'_append_eq_right
  rw [le16, hhigh, hlow]
  rfl

/-- A write outside a 16-bit field leaves what the field reads. -/
theorem readHalf_memWrite_disjoint {m : Memory} (h : m.wf = true) {off : Nat} {bs : List Byte} {addr : Nat}
    (hd : addr + 2 ≤ off ∨ off + bs.length ≤ addr) : readHalf (memWrite m off bs) addr = readHalf m addr := by
  rw [readHalf, readHalf, readByte_memWrite h, readByte_memWrite h, if_neg (by omega), if_neg (by omega)]

/-- The payload length is 0 exactly when its field is (20_memory R46). -/
theorem payloadLen_eq_zero_iff (m : Memory) : payloadLen m = 0 ↔ readHalf m offLen = 0#16 :=
  ⟨fun h => BitVec.eq_of_toNat_eq h, fun h => congrArg BitVec.toNat h⟩

/-- What a padded write of bytes that fit leaves to be read: the bytes, then zeros (43_framer R123). -/
theorem memRead_memWritePadded {m : Memory} (h : m.wf = true) (addr : Nat) {n : Nat} {bs : List Byte}
    (hb : bs.length ≤ n) : memRead (memWritePadded m addr n bs) addr n = bs ++ zeros (n - bs.length) := by
  have hlen : (bs ++ zeros (n - bs.length)).length = n := by rw [List.length_append, zeros_length]; omega
  have hwf : (memWrite m addr (bs ++ zeros (n - bs.length))).wf = true := wf_memWrite h addr _
  rw [← memRead_memWrite h addr (bs ++ zeros (n - bs.length)), hlen]
  refine memRead_congr fun j hj => ?_
  rw [readByte_memWritePadded h addr n hb, readByte_memWrite h, hlen]
  split
  · rw [Nat.add_sub_cancel_left]
    simp only [List.getD_eq_getElem?_getD, List.getElem?_append, zeros]
    split
    · rfl
    · next hge =>
      rw [List.getElem?_eq_none (Nat.le_of_not_lt hge), List.getElem?_replicate]
      split <;> rfl
  · rfl

/-- The bits of the packet-type word (30_encoding R72). -/
theorem typeword_bits (version : BitVec 5) (pol : Line) (lost part : Bool) (ty : BitVec 8) :
    (typeword version pol lost part ty).getLsbD 0 = decide (pol = .b)
    ∧ (typeword version pol lost part ty).getLsbD 1 = lost ∧ (typeword version pol lost part ty).getLsbD 2 = part
    ∧ (typeword version pol lost part ty).extractLsb' 3 5 = version
    ∧ (typeword version pol lost part ty).extractLsb' 8 8 = ty := by
  simp only [typeword, getLsbD_append_bit, getLsbD_append_high (m := 1), extractLsb'_append_high (m := 1),
    extractLsb'_append_high (m := 5), BitVec.extractLsb'_append_eq_right, BitVec.extractLsb'_eq_self,
    lineBit_eq_decide, -Nat.reduceAdd, true_and]

/-! ### The payload and its length, as ASSEMBLE and CLEAR write them -/

section Fill
variable {p : Params} {m : Memory} {len : Half} {bs : List Byte}

/-- Every byte after the payload and its length were written (43_framer R123, R127). -/
theorem readByte_fillPayload (hwf : m.wf = true) (hb : bs.length ≤ p.payloadMax) (a : Nat) :
    readByte (fillPayload p len bs m) a
      = if 16 ≤ a ∧ a < 18 then (le16 len).getD (a - 16) 0#8
        else if 20 ≤ a ∧ a < 20 + p.payloadMax then bs.getD (a - 20) 0#8 else readByte m a := by
  rw [fillPayload, readByte_memWrite (wf_memWritePadded hwf _ _ _), readByte_memWritePadded hwf _ _ hb]
  rfl

theorem wf_fillPayload (hwf : m.wf = true) : (fillPayload p len bs m).wf = true :=
  wf_memWrite (wf_memWritePadded hwf _ _ _) _ _

theorem readByte_fillPayload_of_outside (hwf : m.wf = true) (hb : bs.length ≤ p.payloadMax) {a : Nat}
    (ha : a < 16 ∨ a = 18 ∨ a = 19 ∨ 20 + p.payloadMax ≤ a) :
    readByte (fillPayload p len bs m) a = readByte m a := by
  rw [readByte_fillPayload hwf hb, if_neg (by omega), if_neg (by omega)]

theorem readHalf_fillPayload (hwf : m.wf = true) : readHalf (fillPayload p len bs m) offLen = len :=
  readHalf_memWrite_le16 (wf_memWritePadded hwf _ _ _) _ _

theorem memRead_fillPayload (hwf : m.wf = true) (hb : bs.length ≤ p.payloadMax) :
    memRead (fillPayload p len bs m) offPayload p.payloadMax = bs ++ zeros (p.payloadMax - bs.length) := by
  rw [fillPayload, memRead_memWrite_disjoint (wf_memWritePadded hwf _ _ _) _ _ _ _ (.inr (Nat.le_add_right 18 2)),
    memRead_memWritePadded hwf _ hb]

end Fill

/-! ### A take cycle's packet -/

/-- What a take cycle's header has in common, found a capture or not: the telemetry and the packet-type word, and the
sequence field of before (43_framer R123). -/
structure HeaderWritten (tel : PerChannel Half) (word : Half) (m m' : Memory) : Prop where
  telemetry : memRead m' 4 10 = telBytes tel
  typeword : readHalf m' 14 = word
  sequence : ∀ a, a < 4 → readByte m' a = readByte m a

/-- The telemetry is written first and the packet-type word last, and nothing below offset 16 between them. -/
theorem headerWritten_of_eq {m x : Memory} (hwf : m.wf = true) (hx : x.wf = true) (tel : PerChannel Half)
    (word : Half) (hkeep : ∀ a, a < 16 → readByte x a = readByte (memWrite m offTel (telBytes tel)) a) :
    HeaderWritten tel word m (memWrite x offType (le16 word)) where
  telemetry := by
    rw [memRead_memWrite_disjoint hx _ _ _ _ (.inl (Nat.le_refl 14)),
      memRead_congr fun j hj => hkeep (4 + j) (by omega)]
    exact memRead_memWrite hwf offTel (telBytes tel)
  typeword := readHalf_memWrite_le16 hx _ _
  sequence := by
    intro a ha
    have htel : ¬ (offTel ≤ a ∧ a < offTel + (telBytes tel).length) := fun h => absurd (h.1.trans_lt ha) (by decide)
    have htype : ¬ (offType ≤ a ∧ a < offType + (le16 word).length) := fun h => by
      simp only [offType] at h
      omega
    rw [readByte_memWrite hx, if_neg htype, hkeep a (by omega), readByte_memWrite hwf, if_neg htel]

/-- The packet buffer after a take cycle on an empty ring (43_framer R123). -/
def packEmpty (p : Params) (active : Line) (lost : Bool) (tel : PerChannel Half) (m : Memory) : Memory :=
  memWrite (memWrite m offTel (telBytes tel)) offType (le16 (typeword p.protoVersion active lost false 0#8))

/-- The packet buffer after a take cycle that takes a capture (43_framer R123). -/
def packCapture (p : Params) (c : Capture) (lost : Bool) (tel : PerChannel Half) (m : Memory) : Memory :=
  memWrite (fillPayload p c.len c.bytes (memWrite m offTel (telBytes tel))) offType
    (le16 (typeword p.protoVersion c.line lost c.part c.ty))

section Pack
variable {p : Params} {m : Memory} {lost : Bool} {tel : PerChannel Half}

theorem packEmpty_header (hwf : m.wf = true) (active : Line) :
    HeaderWritten tel (typeword p.protoVersion active lost false 0#8) m (packEmpty p active lost tel m) :=
  headerWritten_of_eq hwf (wf_memWrite hwf _ _) tel _ fun _ _ => rfl

/-- Payload and length stay as CLEAR left them (43_framer R123). -/
theorem readByte_packEmpty_of_ge (hwf : m.wf = true) (active : Line) {a : Nat} (ha : 16 ≤ a) :
    readByte (packEmpty p active lost tel m) a = readByte m a := by
  have hlen : (telBytes tel).length = 10 := rfl
  rw [packEmpty, readByte_memWrite (wf_memWrite hwf _ _), readByte_memWrite hwf, le16_length, hlen, offType, offTel,
    if_neg (by omega), if_neg (by omega)]

variable {c : Capture}

theorem packCapture_header (hwf : m.wf = true) (hc : c.bytes.length ≤ p.payloadMax) :
    HeaderWritten tel (typeword p.protoVersion c.line lost c.part c.ty) m (packCapture p c lost tel m) :=
  headerWritten_of_eq hwf (wf_fillPayload (wf_memWrite hwf _ _)) tel _
    fun _ ha => readByte_fillPayload_of_outside (wf_memWrite hwf _ _) hc (.inl ha)

theorem wf_packCapture (hwf : m.wf = true) : (packCapture p c lost tel m).wf = true :=
  wf_memWrite (wf_fillPayload (wf_memWrite hwf _ _)) _ _

/-- The capture's length (43_framer R123). -/
theorem readHalf_packCapture_len (hwf : m.wf = true) : readHalf (packCapture p c lost tel m) 16 = c.len := by
  have htel := wf_memWrite hwf offTel (telBytes tel)
  rw [packCapture, readHalf_memWrite_disjoint (wf_fillPayload htel) (.inr (Nat.le_refl 16))]
  exact readHalf_fillPayload htel

/-- The capture's bytes, and zeros to the end of the payload (43_framer R123). -/
theorem memRead_packCapture_payload (hwf : m.wf = true) (hc : c.bytes.length ≤ p.payloadMax) :
    memRead (packCapture p c lost tel m) 20 p.payloadMax = c.bytes ++ zeros (p.payloadMax - c.bytes.length) := by
  have htel := wf_memWrite hwf offTel (telBytes tel)
  rw [packCapture, memRead_memWrite_disjoint (wf_fillPayload htel) _ _ _ _ (.inr (Nat.le_add_right 16 4))]
  exact memRead_fillPayload htel hc

/-- The sequence field, the reserved bytes and what lies beyond the payload stay (43_framer R123). -/
theorem readByte_packCapture_of_outside (hwf : m.wf = true) (hc : c.bytes.length ≤ p.payloadMax) {a : Nat}
    (ha : a < 4 ∨ a = 18 ∨ a = 19 ∨ 20 + p.payloadMax ≤ a) :
    readByte (packCapture p c lost tel m) a = readByte m a := by
  have htel := wf_memWrite hwf offTel (telBytes tel)
  have hlen : (telBytes tel).length = 10 := rfl
  rw [packCapture, readByte_memWrite (wf_fillPayload htel), readByte_fillPayload_of_outside htel hc (by omega),
    readByte_memWrite hwf, le16_length, hlen, offType, offTel, if_neg (by omega), if_neg (by omega)]

end Pack

/-! ### The sealed packet -/

/-- The packet buffer after SEAL (43_framer R124). -/
def sealPkt (p : Params) (m : Memory) : Memory := memWrite m p.span (le32 (crc32 (memRead m 0 p.span)))

/-- SEAL writes no byte of the span (43_framer R124). -/
theorem memRead_sealPkt {p : Params} {m : Memory} (hwf : m.wf = true) {addr n : Nat} (h : addr + n ≤ p.span) :
    memRead (sealPkt p m) addr n = memRead m addr n := memRead_memWrite_disjoint hwf _ _ _ _ (.inl h)

theorem readByte_sealPkt_of_outside {p : Params} {m : Memory} (hwf : m.wf = true) {a : Nat}
    (ha : a < p.span ∨ p.span + 4 ≤ a) : readByte (sealPkt p m) a = readByte m a := by
  rw [sealPkt, readByte_memWrite hwf, le32_length, if_neg (by omega)]

end Sys2Proof.Machine
end

/-! ## The framer: what each phase does, as its whole next state -/

section
namespace Sys2Proof.Machine

variable {s : State}

/-! ### STOPPED and CYCLE_START -/

theorem exec_phaseStopped_of_run (h : s.cfg.run = true) :
    exec .phaseStopped s = .next { s with framer := { s.framer with phase := phCycleStart } } := if_pos h

theorem exec_phaseStopped_of_not_run (h : s.cfg.run = false) : exec .phaseStopped s = .next s :=
  if_neg (Bool.eq_false_iff.1 h)

theorem exec_phaseCycleStart_of_run (h : s.cfg.run = true) :
    exec .phaseCycleStart s = .next
      { s with framer := (startCycle s).framer, pkt := memWrite s.pkt offSeq (le32 (s.framer.seq + 1#32)) } := if_pos h

theorem exec_phaseCycleStart_of_not_run (h : s.cfg.run = false) :
    exec .phaseCycleStart s = .next { s with framer := { s.framer with phase := phStopped } } :=
  if_neg (Bool.eq_false_iff.1 h)

/-- Settles O45: the two branches of the phase. -/
theorem stoppedHoldsUntilRun : Obligations.StoppedHoldsUntilRun :=
  ⟨rfl, fun _ h => exec_phaseStopped_of_run h, fun _ h => exec_phaseStopped_of_not_run h⟩

/-- Settles O46: the sequence field is what was written at offset 0, and the write ends at offset 4. -/
theorem cycleStartNumbersTheCycle : Obligations.CycleStartNumbersTheCycle := by
  refine ⟨rfl, fun s hwf hrun => ?_, fun s h => exec_phaseCycleStart_of_not_run h⟩
  have hpending : (s.ring.w != s.ring.r) = decide (s.ring.w ≠ s.ring.r) := by
    rw [bne, beq_eq_decide, decide_not]
  refine ⟨_, exec_phaseCycleStart_of_run hrun, BitVec.toNat_add _ _, memRead_memWrite hwf offSeq (le32 _),
    fun a ha => ?_, ?_⟩
  · rw [readByte_memWrite hwf, le32_length, offSeq, if_neg (by omega)]
  · rw [← hpending]
    rfl

/-! ### TELEM -/

/-- One draw takes the listed answer away, or counts a free one. -/
theorem drawMeas_snd (s : State) :
    ∃ n, (drawMeas s).2 = { s with env := { s.env with measIn := s.env.measIn.tail, measCount := n } } := by
  unfold drawMeas
  split
  · next h => exact ⟨s.env.measCount + 1, by simp [h]⟩
  · next h => exact ⟨s.env.measCount, by simp [h]⟩

/-- The five draws take away five listed answers, or as many as there are. -/
theorem drawChannels_snd (s : State) :
    ∃ n, (drawChannels s).2 = { s with env := { s.env with measIn := s.env.measIn.drop 5, measCount := n } } := by
  obtain ⟨n0, h0⟩ := drawMeas_snd s
  obtain ⟨n1, h1⟩ := drawMeas_snd (drawMeas s).2
  obtain ⟨n2, h2⟩ := drawMeas_snd (drawMeas (drawMeas s).2).2
  obtain ⟨n3, h3⟩ := drawMeas_snd (drawMeas (drawMeas (drawMeas s).2).2).2
  obtain ⟨n4, h4⟩ := drawMeas_snd (drawMeas (drawMeas (drawMeas (drawMeas s).2).2).2).2
  refine ⟨n4, h4.trans ?_⟩
  rw [h3, h2, h1, h0]
  simp only [← List.drop_one, List.drop_drop]

/-- The five answers of TELEM, all within the contract (43_framer R122). -/
def Answers (v : PerChannel (Option Half)) (s : State) : Prop :=
  measAnswer s 0 = .answer v.ccLineA ∧ measAnswer s 1 = .answer v.ccLineB ∧ measAnswer s 2 = .answer v.controlCurrent
    ∧ measAnswer s 3 = .answer v.busVoltage ∧ measAnswer s 4 = .answer v.busCurrent

theorem exec_phaseTelem_of_answers {v : PerChannel (Option Half)} (h : Answers v s) :
    ∃ n, exec .phaseTelem s = .next
      { s with
        telem := refreshTelemetry s.params v s.cfg.lineSel s.telem
        framer := { s.framer with phase := phAssemble }
        env := { s.env with measIn := s.env.measIn.drop 5, measCount := n } } := by
  have hwithin : withinContract (drawChannels s).1 = some v := by
    rw [drawChannels_answers]
    exact withinContract_eq_some.2 h
  obtain ⟨n, hdrawn⟩ := drawChannels_snd s
  refine ⟨n, ?_⟩
  simp only [exec, execPhaseTelem, hwithin, hdrawn]
  rfl

/-- Each error bit says whether its channel's read failed (10_state R34). -/
theorem measErrOf_bits (v : PerChannel (Option Half)) :
    (measErrOf v).getLsbD 0 = v.ccLineA.isNone ∧ (measErrOf v).getLsbD 1 = v.ccLineB.isNone
    ∧ (measErrOf v).getLsbD 2 = v.controlCurrent.isNone ∧ (measErrOf v).getLsbD 3 = v.busVoltage.isNone
    ∧ (measErrOf v).getLsbD 4 = v.busCurrent.isNone := by
  have hhighest (b : Bool) : (bit b).getLsbD 0 = b := by cases b <;> rfl
  simp only [measErrOf, getLsbD_append_bit, getLsbD_append_high (m := 1), hhighest, -Nat.reduceAdd, true_and]

theorem inWindow_eq_true_iff {p : Params} {v : Half} :
    inWindow p v = true ↔ (p.winLo : Int) < v.toInt ∧ v.toInt < (p.winHi : Int) := by
  simp [inWindow]

/-- Settles O47: the answers are within the contract, and the active line is `chooseLine` branch by branch. -/
theorem telemRefreshesAndDetectsLine : Obligations.TelemRefreshesAndDetectsLine := by
  refine ⟨rfl, fun s v h0 h1 h2 h3 h4 => ?_⟩
  obtain ⟨n, hexec⟩ := exec_phaseTelem_of_answers ⟨h0, h1, h2, h3, h4⟩
  obtain ⟨e0, e1, e2, e3, e4⟩ := measErrOf_bits v
  refine ⟨_, hexec, rfl, rfl, rfl, rfl, rfl, e0, e1, e2, e3, e4, fun hA => ?_, fun hA hB => ?_, fun hA hB => ?_, rfl,
    rfl, rfl, rfl, rfl⟩
  · exact if_pos (inWindow_eq_true_iff.2 hA)
  · exact (if_neg (mt inWindow_eq_true_iff.1 hA)).trans (if_pos (inWindow_eq_true_iff.2 hB))
  · exact (if_neg (mt inWindow_eq_true_iff.1 hA)).trans (if_neg (mt inWindow_eq_true_iff.1 hB))

/-! ### ASSEMBLE -/

theorem exec_phaseAssemble_of_lt (h : s.framer.cyc < s.params.takeCycles) :
    exec .phaseAssemble s = .next
      { s with
        ring := { (ringTakeOp s.ring).2 with lostPending := false }
        pkt := (assembleTake s).pkt
        framer := { s.framer with phase := phSeal } } := by
  rw [exec, execPhaseAssemble, if_pos h, assembleTake_frame]
  rfl

theorem exec_phaseAssemble_of_ge (h : s.params.takeCycles ≤ s.framer.cyc) :
    exec .phaseAssemble s = .next { s with framer := { s.framer with phase := phSeal } } := if_neg (Nat.not_lt.2 h)

theorem assembleTake_pkt_of_some {c : Capture} (h : (ringTakeOp s.ring).1 = some c) :
    (assembleTake s).pkt = packCapture s.params c s.ring.lostPending s.telem.tel s.pkt := by
  rw [assembleTake, h]
  rfl

theorem assembleTake_pkt_of_none (h : (ringTakeOp s.ring).1 = none) :
    (assembleTake s).pkt = packEmpty s.params s.telem.active s.ring.lostPending s.telem.tel s.pkt := by
  rw [assembleTake, h]
  rfl

/-- A take cycle with a capture pending (43_framer R123). -/
theorem exec_phaseAssemble_of_capture {c : Capture} (hcyc : s.framer.cyc < s.params.takeCycles)
    (hc : (ringTakeOp s.ring).1 = some c) :
    exec .phaseAssemble s = .next
      { s with
        ring := { (ringTakeOp s.ring).2 with lostPending := false }
        pkt := packCapture s.params c s.ring.lostPending s.telem.tel s.pkt
        framer := { s.framer with phase := phSeal } } := by
  rw [exec_phaseAssemble_of_lt hcyc, assembleTake_pkt_of_some hc]

/-- A take cycle on an empty ring (43_framer R123). -/
theorem exec_phaseAssemble_of_empty (hcyc : s.framer.cyc < s.params.takeCycles) (hempty : s.ring.w = s.ring.r) :
    exec .phaseAssemble s = .next
      { s with
        ring := { s.ring with lostPending := false }
        pkt := packEmpty s.params s.telem.active s.ring.lostPending s.telem.tel s.pkt
        framer := { s.framer with phase := phSeal } } := by
  have htake : ringTakeOp s.ring = (none, s.ring) := ringTakeOp_empty hempty.symm
  rw [exec_phaseAssemble_of_lt hcyc, assembleTake_pkt_of_none (congrArg Prod.fst htake), htake]

/-- Settles O48: the ring is that of the take, the packet `packCapture` or `packEmpty`. -/
theorem assembleTakesAtMostOneCapture : Obligations.AssembleTakesAtMostOneCapture := by
  refine ⟨rfl, fun s c cs hring hwf hcyc hqueue => ?_, fun s hwf hcyc hempty => ?_,
    fun s hcyc => exec_phaseAssemble_of_ge hcyc⟩
  · obtain ⟨-, hsome, hrest⟩ := ringTakeOp_of_unread_eq_cons hring hqueue
    obtain ⟨hlen, hmax⟩ := ringTakeOp_capture_fits hring hsome
    have hfits : c.bytes.length ≤ s.params.payloadMax := hlen.trans_le hmax
    have hheader := packCapture_header (lost := s.ring.lostPending) (tel := s.telem.tel) hwf hfits
    obtain ⟨hline, hlost, hpart, hversion, hty⟩ :=
      typeword_bits s.params.protoVersion c.line s.ring.lostPending c.part c.ty
    rw [← hheader.typeword] at hline hlost hpart hversion hty
    exact ⟨_, exec_phaseAssemble_of_capture hcyc hsome, ⟨_, exec_ringTake s, rfl⟩, hrest, rfl, ringTakeOp_drops _,
      hheader.telemetry, hline, hlost, hpart, hversion, hty, readHalf_packCapture_len hwf,
      memRead_packCapture_payload hwf hfits, fun _ ha => readByte_packCapture_of_outside hwf hfits ha, rfl⟩
  · have hheader :=
      packEmpty_header (p := s.params) (lost := s.ring.lostPending) (tel := s.telem.tel) hwf s.telem.active
    obtain ⟨hline, hlost, hpart, hversion, hty⟩ :=
      typeword_bits s.params.protoVersion s.telem.active s.ring.lostPending false 0#8
    rw [← hheader.typeword] at hline hlost hpart hversion hty
    refine ⟨_, exec_phaseAssemble_of_empty hcyc hempty, rfl, hheader.telemetry, hline, hlost, hpart, hversion, hty,
      fun a ha => ?_, rfl⟩
    rcases ha with hseq | hbeyond
    · exact hheader.sequence a hseq
    · exact readByte_packEmpty_of_ge hwf s.telem.active hbeyond

/-! ### SEAL -/

theorem exec_phaseSeal (s : State) :
    exec .phaseSeal s = .next
      { s with
        pkt := sealPkt s.params s.pkt
        crc := crcFold 0xFFFFFFFF#32 (memRead s.pkt 0 s.params.span)
        framer := { s.framer with phase := phTxDecide } } := by
  rw [exec, execPhaseSeal, crcResultOp_of_fresh, pktSpan_eq]
  rfl

/-- Settles O49: the packet is `sealPkt`. -/
theorem sealWritesTrailer : Obligations.SealWritesTrailer :=
  ⟨rfl, fun s hwf => ⟨_, exec_phaseSeal s, memRead_memWrite hwf s.params.span (le32 _),
    fun _ ha => readByte_sealPkt_of_outside hwf ha, pktSealed_memWrite_trailer hwf, rfl, rfl⟩⟩

/-! ### TX_DECIDE -/

theorem exec_phaseTxDecide_of_send (h : payloadLen s.pkt ≠ 0 ∨ s.cfg.suppress = false) :
    exec .phaseTxDecide s
      = .next { s with framer := { s.framer with txOff := 0, stall := 0#32, phase := phTxWrite } } :=
  if_pos (h.imp_left (mt (payloadLen_eq_zero_iff s.pkt).2))

theorem exec_phaseTxDecide_of_suppress (h : ¬ (payloadLen s.pkt ≠ 0 ∨ s.cfg.suppress = false)) :
    exec .phaseTxDecide s = .next { s with framer := { s.framer with phase := phClear } } :=
  if_neg (mt (Or.imp_left (mt (payloadLen_eq_zero_iff s.pkt).1)) h)

/-- Settles O50: the two branches of the phase, on the length field as two bytes (`payloadLen_eq_bytes`). -/
theorem txDecideSendsOrSuppresses : Obligations.TxDecideSendsOrSuppresses := by
  refine ⟨rfl, fun s h => ?_, fun s hlen hsuppress => ?_⟩
  · rw [← payloadLen_eq_bytes] at h
    exact exec_phaseTxDecide_of_send h
  · rw [← payloadLen_eq_bytes] at hlen
    refine exec_phaseTxDecide_of_suppress ?_
    rintro (hpayload | hoff)
    · exact hpayload hlen
    · exact Bool.noConfusion (hsuppress.symm.trans hoff)

/-! ### TX_WRITE -/

/-- The draw takes the listed answer away, or counts a free one. -/
theorem drawTx_snd (s : State) :
    ∃ n, (drawTx s).2 = { s with env := { s.env with txIn := s.env.txIn.tail, txCount := n } } := by
  unfold drawTx
  split
  · next h => exact ⟨s.env.txCount + 1, by simp [h]⟩
  · next h => exact ⟨s.env.txCount, by simp [h]⟩

/-- An answer beyond what was offered is the fault TransportOverrun (60_exceptions R181). -/
theorem exec_phaseTxWrite_of_overrun (h : offered s < txAnswer s) :
    exec .phaseTxWrite s = .fault .transportOverrun := if_pos ((txOverrun_iff s).2 h)

theorem exec_phaseTxWrite_of_le (h : txAnswer s ≤ offered s) :
    exec .phaseTxWrite s
      = .next (if txAnswer s = 0 then txStall (drawTx s).2 else txAccept (txAnswer s) (drawTx s).2) :=
  if_neg (mt (txOverrun_iff s).1 (Nat.not_lt.2 h))

/-- An answer of 0 is a stall, wherever the transmit offset stands. -/
theorem exec_phaseTxWrite_of_zero (h : txAnswer s = 0) : exec .phaseTxWrite s = .next (txStall (drawTx s).2) := by
  rw [exec_phaseTxWrite_of_le (h.trans_le (Nat.zero_le _)), if_pos h]

theorem exec_phaseTxWrite_of_pos (hpos : 0 < txAnswer s) (h : txAnswer s ≤ offered s) :
    exec .phaseTxWrite s = .next (txAccept (txAnswer s) (drawTx s).2) := by
  rw [exec_phaseTxWrite_of_le h, if_neg hpos.ne']

/-- A stall past the threshold with auto-stop on aborts the packet and clears run (43_framer R126). -/
theorem txStall_of_abort (h : s.params.stallMax < (satInc s.framer.stall).toNat ∧ s.cfg.autostop = true) :
    txStall s = { s with
      framer :=
        { s.framer with stall := satInc s.framer.stall, aborted := true, autostopped := true, phase := phClear }
      cfg := { s.cfg with run := false } } := if_pos h

/-- Every other stall leads to the sleep (43_framer R126). -/
theorem txStall_of_sleep (h : ¬ (s.params.stallMax < (satInc s.framer.stall).toNat ∧ s.cfg.autostop = true)) :
    txStall s = { s with framer := { s.framer with stall := satInc s.framer.stall, phase := phTxSleep } } := if_neg h

theorem txStall_stall (s : State) : (txStall s).framer.stall = satInc s.framer.stall := by
  unfold txStall
  split <;> rfl

/-- Settles O51: an accepted write, the two branches of a stall, and the fault. -/
theorem txWriteAcceptsStallsOrAborts : Obligations.TxWriteAcceptsStallsOrAborts := by
  refine ⟨rfl, fun s hpos hle => ?_, fun s hzero => ?_, fun s hover => exec_phaseTxWrite_of_overrun hover⟩
  · obtain ⟨n, hdrawn⟩ := drawTx_snd s
    refine ⟨_, exec_phaseTxWrite_of_pos hpos hle, ?_⟩
    rw [hdrawn]
    exact ⟨rfl, rfl, rfl, rfl⟩
  · obtain ⟨n, hdrawn⟩ := drawTx_snd s
    refine ⟨_, exec_phaseTxWrite_of_zero hzero, ?_⟩
    rw [hdrawn, txStall_stall, txStall_env]
    exact ⟨satInc_toNat _, rfl, rfl, rfl, fun habort => txStall_of_abort habort,
      fun hsleep => txStall_of_sleep hsleep⟩

/-- Settles O52: only a listed answer can be an overrun (`txOverrun_iff`). -/
theorem freeTransportAnswerIsInRange : Obligations.FreeTransportAnswerIsInRange := by
  intro s hfree
  have hnone : ¬ txOverrun s = true := by simp [txOverrun, hfree]
  exact Nat.le_of_not_lt (mt (txOverrun_iff s).2 hnone)

/-! ### CLEAR and the sleeps -/

theorem exec_phaseClear (s : State) :
    exec .phaseClear s = .next
      { s with
        pkt := fillPayload s.params 0#16 [] s.pkt
        framer := { s.framer with cyc := (s.framer.cyc + 1) % s.params.k, phase := afterClear s.framer } } := rfl

/-- Settles O53: payload and length are `fillPayload` of nothing. -/
theorem clearEmptiesPayload : Obligations.ClearEmptiesPayload := by
  refine ⟨rfl, fun s hwf => ?_⟩
  have hread := fun a => readByte_fillPayload (p := s.params) (len := 0#16) (bs := []) hwf (Nat.zero_le _) a
  refine ⟨_, exec_phaseClear s, fun a hlo hhi => ?_, hread 16, hread 17,
    fun a ha => readByte_fillPayload_of_outside hwf (Nat.zero_le _) ha, rfl⟩
  exact (hread a).trans ((if_neg (by omega)).trans (if_pos ⟨hlo, hhi⟩))

theorem exec_phaseTxSleep (s : State) :
    exec .phaseTxSleep s = .next { s with framer := { s.framer with wake := false, phase := phTxWrite } } := rfl

theorem exec_phaseIdleSleep (s : State) :
    exec .phaseIdleSleep s = .next { s with framer := { s.framer with wake := false, phase := phCycleStart } } := rfl

/-- Settles O54: neither sleep has a condition. -/
theorem sleepsEndAndClearWake : Obligations.SleepsEndAndClearWake :=
  ⟨rfl, rfl, exec_phaseTxSleep, exec_phaseIdleSleep⟩

end Sys2Proof.Machine
end

/-! ## The framer: who writes the configuration, and the transition table -/

section
namespace Sys2Proof.Machine

variable {s : State}

/-! ### Runtime Configuration -/

/-- A phase other than TX_WRITE leaves the configuration (43_framer R120 to R129). -/
theorem exec_phase_cfg {i : Instr} (hi : issuer i = .framer) (hwrite : i ≠ .phaseTxWrite) (s : State) :
    OnNext (fun t => t.cfg = s.cfg) (exec i s) := by
  cases i with
  | phaseStopped =>
    simp only [exec, execPhaseStopped]
    split <;> exact onNext_next.2 rfl
  | phaseCycleStart =>
    simp only [exec, execPhaseCycleStart]
    split <;> exact onNext_next.2 rfl
  | phaseTelem => exact execPhaseTelem_onNext fun _ => drawChannels_cfg s
  | phaseAssemble =>
    simp only [exec, execPhaseAssemble]
    split
    · exact onNext_next.2 (assembleTake_cfg s)
    · exact onNext_next.2 rfl
  | phaseSeal => exact onNext_next.2 rfl
  | phaseTxDecide =>
    simp only [exec, execPhaseTxDecide]
    split <;> exact onNext_next.2 rfl
  | phaseTxWrite => exact absurd rfl hwrite
  | phaseTxSleep => exact onNext_next.2 rfl
  | phaseClear => exact onNext_next.2 rfl
  | phaseIdleSleep => exact onNext_next.2 rfl
  | _ => cases hi

/-- TX_WRITE writes the configuration only where it aborts, and then it clears run (43_framer R126). -/
theorem exec_phaseTxWrite_cfg (s : State) :
    OnNext (fun t => t.cfg = s.cfg
      ∨ (t.cfg = { s.cfg with run := false } ∧ s.cfg.autostop = true ∧ txAnswer s = 0
          ∧ s.params.stallMax < t.framer.stall.toNat)) (exec .phaseTxWrite s) := by
  obtain ⟨-, haccepts, hstalls, hoverruns⟩ := txWriteAcceptsStallsOrAborts
  rcases Nat.lt_or_ge (offered s) (txAnswer s) with hover | hle
  · rw [hoverruns s hover]
    exact onNext_fault _ _
  · rcases Nat.eq_zero_or_pos (txAnswer s) with hzero | hpos
    · obtain ⟨t, hexec, -, -, -, -, haborts, hsleeps⟩ := hstalls s hzero
      rw [hexec, onNext_next]
      by_cases habort : s.params.stallMax < t.framer.stall.toNat ∧ s.cfg.autostop = true
      · exact .inr ⟨congrArg State.cfg (haborts habort), habort.2, hzero, habort.1⟩
      · exact .inl (by rw [hsleeps habort])
    · obtain ⟨t, hexec, ht, -⟩ := haccepts s hpos hle
      rw [hexec, onNext_next]
      exact .inl (by rw [ht])

/-- Settles O22: the capture port and the internal operations keep to their frames, and of the phases' writes only the
abort of a stall is one of the configuration. -/
theorem configurationWriters : Obligations.ConfigurationWriters := by
  refine ⟨fun i s t hhost hwrite hexec => ?_, exec_phaseTxWrite_cfg⟩
  have h := exec_frame i s t hexec
  cases hwho : issuer i with
  | host => exact absurd hwho hhost
  | captureHardware => rw [(h.producer hwho).rest]
  | ownUnit => rw [(h.ownUnit hwho).rest]
  | framer => exact exec_phase_cfg hwho hwrite s t hexec

/-! ### The phase after each phase -/

theorem phase_after_stopped (hphase : s.framer.phase = 0#4) :
    OnNext (fun t => t.framer.phase = if s.cfg.run then 1#4 else 0#4) (exec .phaseStopped s) := by
  cases hrun : s.cfg.run with
  | true => rw [exec_phaseStopped_of_run hrun]; exact onNext_next.2 rfl
  | false => rw [exec_phaseStopped_of_not_run hrun]; exact onNext_next.2 hphase

theorem phase_after_cycleStart (s : State) :
    OnNext (fun t => t.framer.phase = if s.cfg.run then (if s.framer.cyc = 0 then 2#4 else 3#4) else 0#4)
      (exec .phaseCycleStart s) := by
  cases hrun : s.cfg.run with
  | true => rw [exec_phaseCycleStart_of_run hrun]; exact onNext_next.2 rfl
  | false => rw [exec_phaseCycleStart_of_not_run hrun]; exact onNext_next.2 rfl

theorem phase_after_telem (s : State) : OnNext (fun t => t.framer.phase = 3#4) (exec .phaseTelem s) :=
  execPhaseTelem_onNext fun _ => rfl

theorem phase_after_assemble (s : State) : OnNext (fun t => t.framer.phase = 4#4) (exec .phaseAssemble s) := by
  rcases Nat.lt_or_ge s.framer.cyc s.params.takeCycles with htake | hpast
  · rw [exec_phaseAssemble_of_lt htake]; exact onNext_next.2 rfl
  · rw [exec_phaseAssemble_of_ge hpast]; exact onNext_next.2 rfl

theorem phase_after_seal (s : State) : OnNext (fun t => t.framer.phase = 5#4) (exec .phaseSeal s) := by
  rw [exec_phaseSeal]; exact onNext_next.2 rfl

theorem phase_after_txDecide (s : State) :
    OnNext (fun t => t.framer.phase = if payloadLen s.pkt ≠ 0 ∨ s.cfg.suppress = false then 6#4 else 8#4)
      (exec .phaseTxDecide s) := by
  split
  · next hsend => rw [exec_phaseTxDecide_of_send hsend]; exact onNext_next.2 rfl
  · next hsuppress => rw [exec_phaseTxDecide_of_suppress hsuppress]; exact onNext_next.2 rfl

theorem phase_after_accept (hpos : 0 < txAnswer s) :
    OnNext (fun t => t.framer.phase = if s.framer.txOff + txAnswer s = s.params.pktLen then 8#4 else 6#4)
      (exec .phaseTxWrite s) := by
  rcases Nat.lt_or_ge (offered s) (txAnswer s) with hover | hle
  · rw [exec_phaseTxWrite_of_overrun hover]; exact onNext_fault _ _
  · rw [exec_phaseTxWrite_of_pos hpos hle, onNext_next, txAccept_framer, drawTx_framer, drawTx_params]
    rfl

theorem phase_after_stall (hzero : txAnswer s = 0) :
    OnNext (fun t => t.framer.phase
      = if s.params.stallMax < t.framer.stall.toNat ∧ s.cfg.autostop = true then 8#4 else 7#4)
      (exec .phaseTxWrite s) := by
  obtain ⟨-, -, hstalls, -⟩ := txWriteAcceptsStallsOrAborts
  obtain ⟨t, hexec, -, -, -, -, haborts, hsleeps⟩ := hstalls s hzero
  rw [hexec, onNext_next]
  split
  · next habort => exact congrArg (·.framer.phase) (haborts habort)
  · next hsleep => exact congrArg (·.framer.phase) (hsleeps hsleep)

theorem phase_after_txSleep (s : State) : OnNext (fun t => t.framer.phase = 6#4) (exec .phaseTxSleep s) := by
  rw [exec_phaseTxSleep]; exact onNext_next.2 rfl

theorem phase_after_clear (s : State) :
    OnNext (fun t => t.framer.phase = if s.framer.aborted then 0#4 else if s.framer.pending0 then 1#4 else 9#4)
      (exec .phaseClear s) := by
  rw [exec_phaseClear]; exact onNext_next.2 rfl

theorem phase_after_idleSleep (s : State) : OnNext (fun t => t.framer.phase = 1#4) (exec .phaseIdleSleep s) := by
  rw [exec_phaseIdleSleep]; exact onNext_next.2 rfl

/-! ### Steps -/

/-- A framer's turn runs the phase that the phase register names, and what it does is that of the phase. -/
theorem onNext_of_framerTurn {P : State → Prop} {i : Instr} {t : State} (hturn : nextTurn s = .agent .framer)
    (hphase : decodePhase s.framer.phase = some i) (h : OnNext P (exec i (afterTurn s))) (hstep : step s = .next t) :
    P t := by
  obtain ⟨-, -, -, hframer, -⟩ := stepRunsDecoded
  exact h t ((hframer s i hturn hphase).symm.trans hstep)

/-- Taking a turn leaves the transport's next answer. -/
theorem txAnswer_afterTurn (s : State) : txAnswer (afterTurn s) = txAnswer s := by
  simp only [txAnswer, drawTx, offered, afterTurn_txIn, afterTurn_txCount, afterTurn_params, afterTurn_framer]
  split <;> rfl

/-- No instruction but a phase writes the phase register (43_framer R136). -/
theorem exec_phase_eq_of_not_framer {i : Instr} {t : State} (hi : issuer i ≠ .framer)
    (h : exec i (afterTurn s) = .next t) : t.framer.phase = s.framer.phase := by
  obtain ⟨-, -, hphase, -⟩ := framerOwnsItsState i (afterTurn s) t hi h
  rw [hphase, afterTurn_framer]

/-- A step of any other agent leaves the phase (43_framer R130). -/
theorem step_keeps_phase (hturn : nextTurn s ≠ .agent .framer) :
    OnNext (fun t => t.framer.phase = s.framer.phase) (step s) := by
  have hexec : ∀ {p w d i}, decodeAt p w d = .ok i →
      OnNext (fun t => t.framer.phase = s.framer.phase) (exec i (afterTurn s)) := by
    intro p w d i hi t ht
    refine exec_phase_eq_of_not_framer ?_ ht
    rw [issuer_of_decodeAt hi]
    cases p <;> exact nofun
  rw [step_eq]
  split
  · split
    · next hi => exact hexec hi
    · rw [onNext_next, reject_framer, afterTurn_framer]
  · split
    · next hi => exact hexec hi
    · rw [onNext_next, afterTurn_framer]
  · next hframer => exact absurd hframer hturn
  · split
    · next hi => exact hexec hi
    · exact onNext_fault _ _

/-- Settles O18: the arcs are the lemmas about the phase after each phase. -/
theorem phaseTransitions : Obligations.PhaseTransitions := by
  refine ⟨fun s t hturn hstep => ?_, fun s t hturn hstep => ?_⟩
  · have harc : ∀ {P : State → Prop} {c i}, decodePhase c = some i → s.framer.phase = c →
        OnNext P (exec i (afterTurn s)) → P t := fun hi hc h => onNext_of_framerTurn hturn (hc ▸ hi) h hstep
    refine ⟨fun h => ?_, fun h => ?_, fun h => ?_, fun h => ?_, fun h => ?_, fun h => ?_, fun h hpos => ?_,
      fun h hzero => ?_, fun h => ?_, fun h => ?_, fun h => ?_⟩
    · simpa only [afterTurn_cfg] using harc rfl h (phase_after_stopped (by rwa [afterTurn_framer]))
    · simpa only [afterTurn_cfg, afterTurn_framer] using harc rfl h (phase_after_cycleStart _)
    · exact harc rfl h (phase_after_telem _)
    · exact harc rfl h (phase_after_assemble _)
    · exact harc rfl h (phase_after_seal _)
    · simpa only [afterTurn_pkt, afterTurn_cfg] using harc rfl h (phase_after_txDecide _)
    · rw [← txAnswer_afterTurn] at hpos
      simpa only [afterTurn_framer, afterTurn_params, txAnswer_afterTurn] using harc rfl h (phase_after_accept hpos)
    · rw [← txAnswer_afterTurn] at hzero
      simpa only [afterTurn_params, afterTurn_cfg] using harc rfl h (phase_after_stall hzero)
    · exact harc rfl h (phase_after_txSleep _)
    · simpa only [afterTurn_framer] using harc rfl h (phase_after_clear _)
    · exact harc rfl h (phase_after_idleSleep _)
  · have hkeeps := step_keeps_phase hturn t hstep
    exact ⟨fun _ _ _ => hkeeps, fun _ _ => hkeeps⟩

end Sys2Proof.Machine
end

/-! ## The framer under backpressure -/

section
namespace Sys2Proof.Machine

/-! ### Runs and listed turns -/

/-- A run in two parts. -/
theorem runSteps_add {n : Nat} {s t : State} (h : runSteps n s = .next t) (n' : Nat) :
    runSteps (n + n') s = runSteps n' t := by
  induction n generalizing s with
  | zero =>
    cases h
    rw [Nat.zero_add]
  | succ n ih =>
    cases hstep : step s with
    | next u =>
      rw [runSteps_succ hstep] at h
      rw [Nat.succ_add, runSteps_succ hstep, ih h]
    | fault f => rw [runSteps, hstep] at h; cases h
    | refused r => rw [runSteps, hstep] at h; cases h

/-- A listed framer turn, with the state its phase runs in. -/
theorem step_framer_listed {s : State} {ts : List Turn} {i : Instr} (hturns : s.env.turns = .agent .framer :: ts)
    (hphase : decodePhase s.framer.phase = some i) :
    step s = exec i { s with env := { s.env with turns := ts } } := by
  rw [step_framer hturns hphase]
  simp only [afterTurn, hturns]

/-- A listed framer turn with a listed answer of 0 in TX_WRITE, wherever the transmit offset stands (43_framer R126). -/
theorem step_txWrite_zero {s : State} {ts : List Turn} {xs : List Nat} (hphase : s.framer.phase = phTxWrite)
    (hturns : s.env.turns = .agent .framer :: ts) (hanswers : s.env.txIn = 0 :: xs) :
    step s = .next (txStall { s with env := { s.env with turns := ts, txIn := xs } }) := by
  rw [step_framer_listed (i := .phaseTxWrite) hturns (by rw [hphase]; rfl), exec_phaseTxWrite_of_zero]
  · simp only [drawTx, hanswers]
  · simp only [txAnswer, drawTx, hanswers]

/-! ### Stalls short of an auto-stop -/

/-- What lies between two states of one transmission with n stalled writes and their sleeps between them, and what
turns and answers come next (43_framer R126, R128). -/
structure Stalls (n : Nat) (ts : List Turn) (xs : List Nat) (s t : State) : Prop where
  rest : t = { s with framer := { s.framer with stall := t.framer.stall, wake := t.framer.wake }, env := t.env }
  stall : t.framer.stall.toNat = min (s.framer.stall.toNat + n) (2 ^ 32 - 1)
  turns : t.env.turns = ts
  answers : t.env.txIn = xs

theorem Stalls.refl {s : State} : Stalls 0 s.env.turns s.env.txIn s s where
  rest := rfl
  stall := by
    have hlt := s.framer.stall.isLt
    omega
  turns := rfl
  answers := rfl

theorem Stalls.trans {n n' : Nat} {ts ts' : List Turn} {xs xs' : List Nat} {s t u : State} (h : Stalls n ts xs s t)
    (h' : Stalls n' ts' xs' t u) : Stalls (n + n') ts' xs' s u where
  rest := by
    have hrest := h'.rest
    rw [h.rest] at hrest
    exact hrest
  stall := by
    rw [h'.stall, h.stall]
    omega
  turns := h'.turns
  answers := h'.answers

/-- Nothing but the stall count keeps a transmission from stalling on: the framer is patient for n more stalls. -/
def Patient (n : Nat) (s : State) : Prop :=
  s.framer.stall.toNat + n ≤ s.params.stallMax ∨ s.cfg.autostop = false

theorem Patient.rest {n n' : Nat} {ts : List Turn} {xs : List Nat} {s t : State} (h : Patient (n + n') s)
    (hstalls : Stalls n ts xs s t) : Patient n' t := by
  have hstall := hstalls.stall
  have hparams : t.params = s.params := by rw [hstalls.rest]
  have hcfg : t.cfg = s.cfg := by rw [hstalls.rest]
  rw [Patient, hparams, hcfg]
  exact h.imp_left fun hle => by omega

/-- One stalled write and its sleep (43_framer R126, R128). -/
theorem runSteps_one_stall {s : State} {ts : List Turn} {xs : List Nat} (hphase : s.framer.phase = phTxWrite)
    (hpatient : Patient 1 s) (hturns : s.env.turns = .agent .framer :: .agent .framer :: ts)
    (hanswers : s.env.txIn = 0 :: xs) : ∃ t, runSteps 2 s = .next t ∧ Stalls 1 ts xs s t := by
  have hwrite := (step_txWrite_zero hphase hturns hanswers).trans
    (congrArg Host.Outcome.next (txStall_eq_of_patience hpatient))
  refine ⟨_, (runSteps_succ hwrite 1).trans
    (runSteps_succ ((step_framer_listed rfl rfl).trans (exec_phaseTxSleep _)) 0), ?_⟩
  rw [← hphase]
  exact ⟨rfl, satInc_toNat _, rfl, rfl⟩

/-- n stalled writes and their sleeps, by induction on n. -/
theorem runSteps_stalls {n : Nat} {s : State} {ts : List Turn} {xs : List Nat} (hphase : s.framer.phase = phTxWrite)
    (hpatient : Patient n s) (hturns : s.env.turns = List.replicate (2 * n) (.agent .framer) ++ ts)
    (hanswers : s.env.txIn = List.replicate n 0 ++ xs) :
    ∃ t, runSteps (2 * n) s = .next t ∧ Stalls n ts xs s t := by
  induction n generalizing s with
  | zero =>
    have hrefl := Stalls.refl (s := s)
    rw [hturns, hanswers] at hrefl
    exact ⟨s, rfl, hrefl⟩
  | succ n ih =>
    rw [Nat.add_comm n 1] at hpatient
    obtain ⟨u, hfirst, hone⟩ := runSteps_one_stall hphase (hpatient.imp_left fun hle => by omega) hturns hanswers
    have huphase : u.framer.phase = phTxWrite := by rw [hone.rest, hphase]
    obtain ⟨t, hrun, hmore⟩ := ih huphase (hpatient.rest hone) hone.turns hone.answers
    refine ⟨t, ?_, Nat.add_comm 1 n ▸ hone.trans hmore⟩
    rw [Nat.mul_succ, Nat.add_comm, runSteps_add hfirst, hrun]

/-- Settles O56: with auto-stop off the framer is patient for any number of stalls (`runSteps_stalls`). -/
theorem stallIsUnboundedWithoutAutoStop : Obligations.StallIsUnboundedWithoutAutoStop := by
  intro n s ts xs hphase hmanual hturns hanswers
  obtain ⟨t, hrun, hstalls⟩ := runSteps_stalls hphase (.inr hmanual) hturns hanswers
  have hrest := hstalls.rest
  refine ⟨t, hrun, ?_, hstalls.stall, ?_, ?_, ?_, ?_, ?_, ?_⟩ <;> rw [hrest]
  exact hphase

/-! ### The auto-stop -/

/-- The stall past the threshold, with auto-stop on, and CLEAR lead to STOPPED (43_framer R126, R127). -/
theorem runSteps_abort {s : State} {ts : List Turn} {xs : List Nat} (hphase : s.framer.phase = phTxWrite)
    (hover : s.params.stallMax < (satInc s.framer.stall).toNat) (hauto : s.cfg.autostop = true)
    (hturns : s.env.turns = .agent .framer :: .agent .framer :: ts) (hanswers : s.env.txIn = 0 :: xs) :
    runSteps 2 s = .next
      { s with
        pkt := fillPayload s.params 0#16 [] s.pkt
        framer :=
          { s.framer with
            stall := satInc s.framer.stall, aborted := true, autostopped := true
            cyc := (s.framer.cyc + 1) % s.params.k, phase := phStopped }
        cfg := { s.cfg with run := false }
        env := { s.env with turns := ts, txIn := xs } } := by
  have hwrite := (step_txWrite_zero hphase hturns hanswers).trans
    (congrArg Host.Outcome.next (txStall_of_abort ⟨hover, hauto⟩))
  exact (runSteps_succ hwrite 1).trans
    (runSteps_succ ((step_framer_listed rfl rfl).trans (exec_phaseClear _)) 0)

/-- Of a fresh packet the framer sits out up to STALL_MAX stalls, with auto-stop on or off (43_framer R126). -/
theorem runSteps_stalls_of_fresh {n k : Nat} {s : State} {ts : List Turn} {xs : List Nat}
    (hphase : s.framer.phase = phTxWrite) (hfresh : s.framer.stall = 0#32) (hmax : n + k = s.params.stallMax)
    (hturns : s.env.turns = List.replicate (2 * s.params.stallMax + 2) (.agent .framer) ++ ts)
    (hanswers : s.env.txIn = List.replicate (s.params.stallMax + 1) 0 ++ xs) :
    ∃ t, runSteps (2 * n) s = .next t
      ∧ Stalls n (List.replicate (2 * k + 2) (.agent .framer) ++ ts) (List.replicate (k + 1) 0 ++ xs) s t := by
  have hzero : s.framer.stall.toNat = 0 := by rw [hfresh]; rfl
  have hsplit : 2 * s.params.stallMax + 2 = 2 * n + (2 * k + 2) := by omega
  refine runSteps_stalls hphase (.inl (by omega)) ?_ ?_
  · rw [hturns, hsplit, List.replicate_add, List.append_assoc]
  · rw [hanswers, ← hmax, Nat.add_assoc, List.replicate_add, List.append_assoc]

/-- Settles O55: up to STALL_MAX stalls the framer is patient (`runSteps_stalls_of_fresh`), and the next one aborts
(`runSteps_abort`). -/
theorem backpressureAutoStops : Obligations.BackpressureAutoStops := by
  intro s ts xs hp hphase hfresh hauto hturns hanswers
  obtain ⟨-, -, -, -, -, hmax⟩ := hp
  have hzero : s.framer.stall.toNat = 0 := by rw [hfresh]; rfl
  refine ⟨fun n hn => ?_, ?_⟩
  · obtain ⟨k, hk⟩ := Nat.exists_eq_add_of_le hn
    obtain ⟨u, hrun, hstalls⟩ := runSteps_stalls_of_fresh hphase hfresh hk.symm hturns hanswers
    have hstall := hstalls.stall
    have hrest := hstalls.rest
    exact ⟨u, hrun, by rw [hrest, ← hphase], by rw [hrest], by omega⟩
  · obtain ⟨u, hrun, hstalls⟩ := runSteps_stalls_of_fresh hphase hfresh (Nat.add_zero _) hturns hanswers
    have hstall := hstalls.stall
    have hrest := hstalls.rest
    have hparams : u.params = s.params := by rw [hrest]
    have hsat : (satInc u.framer.stall).toNat = s.params.stallMax + 1 := by
      rw [satInc_toNat]
      omega
    have huover : u.params.stallMax < (satInc u.framer.stall).toNat := by
      rw [hparams]
      omega
    have huphase : u.framer.phase = phTxWrite := by rw [hrest]; exact hphase
    have huauto : u.cfg.autostop = true := by rw [hrest, hauto]
    have habort := runSteps_abort huphase huover huauto hstalls.turns hstalls.answers
    refine ⟨_, (runSteps_add hrun 2).trans habort, rfl, rfl, rfl, rfl, hsat, ?_, ?_, rfl, rfl⟩
    · show u.framer.txOff = _
      rw [hrest]
    · show u.out = _
      rw [hrest]

end Sys2Proof.Machine
end

/-! ## One cycle of the framer -/

section
namespace Sys2Proof.Machine

/-! ### From CYCLE_START to ASSEMBLE -/

/-- Five answers within the contract are the answers of TELEM (43_framer R122). -/
theorem exists_answers {s : State} (h : ∀ i, i < 5 → ∃ v, measAnswer s i = .answer v) : ∃ v, Answers v s := by
  obtain ⟨v0, h0⟩ := h 0 (by decide)
  obtain ⟨v1, h1⟩ := h 1 (by decide)
  obtain ⟨v2, h2⟩ := h 2 (by decide)
  obtain ⟨v3, h3⟩ := h 3 (by decide)
  obtain ⟨v4, h4⟩ := h 4 (by decide)
  exact ⟨⟨v0, v1, v2, v3, v4⟩, h0, h1, h2, h3, h4⟩

/-- The state of a cycle that CYCLE_START has numbered, in one of the phases that follow, with the telemetry and the
environment of that moment (43_framer R121). -/
def cycleNumbered (phase : BitVec 4) (telem : Telemetry) (env : Env) (s : State) : State :=
  { s with
    pkt := memWrite s.pkt offSeq (le32 (s.framer.seq + 1#32))
    framer := { (startCycle s).framer with phase := phase }
    telem := telem
    env := env }

theorem step_cycleStart {s : State} {ts : List Turn} (hphase : s.framer.phase = phCycleStart)
    (hrun : s.cfg.run = true) (hturns : s.env.turns = .agent .framer :: ts) :
    step s = .next (cycleNumbered (if s.framer.cyc = 0 then phTelem else phAssemble) s.telem
      { s.env with turns := ts } s) :=
  (step_framer_listed hturns (by rw [hphase]; rfl)).trans (exec_phaseCycleStart_of_run hrun)

/-- CYCLE_START leads to ASSEMBLE, at cycle index 0 by way of TELEM (43_framer R121, R122). -/
theorem runSteps_toAssemble {s : State} {ts : List Turn} (hphase : s.framer.phase = phCycleStart)
    (hrun : s.cfg.run = true) (hanswers : s.framer.cyc = 0 → ∃ v, Answers v s)
    (hturns : s.env.turns = List.replicate (if s.framer.cyc = 0 then 2 else 1) (.agent .framer) ++ ts) :
    ∃ telem env, runSteps (if s.framer.cyc = 0 then 2 else 1) s = .next (cycleNumbered phAssemble telem env s)
      ∧ env.turns = ts ∧ env.txIn = s.env.txIn := by
  by_cases hcyc : s.framer.cyc = 0
  · rw [if_pos hcyc] at hturns ⊢
    obtain ⟨v, hv⟩ := hanswers hcyc
    have hstart := step_cycleStart hphase hrun hturns
    rw [if_pos hcyc] at hstart
    obtain ⟨n, htelem⟩ :=
      exec_phaseTelem_of_answers (s := cycleNumbered phTelem s.telem { s.env with turns := ts } s) hv
    exact ⟨refreshTelemetry s.params v s.cfg.lineSel s.telem,
      { s.env with turns := ts, measIn := s.env.measIn.drop 5, measCount := n },
      (runSteps_succ hstart 1).trans (runSteps_succ ((step_framer_listed rfl rfl).trans htelem) 0), rfl, rfl⟩
  · rw [if_neg hcyc] at hturns ⊢
    have hstart := step_cycleStart hphase hrun hturns
    rw [if_neg hcyc] at hstart
    exact ⟨s.telem, { s.env with turns := ts }, runSteps_succ hstart 0, rfl, rfl⟩

/-! ### From ASSEMBLE to CLEAR -/

/-- The packet of a cycle that takes a capture (43_framer R123, R124). -/
def cyclePkt (p : Params) (c : Capture) (lost : Bool) (tel : PerChannel Half) (m : Memory) : Memory :=
  sealPkt p (packCapture p c lost tel m)

/-- TX_WRITE where the transport takes the packet whole (43_framer R126). -/
theorem step_txWrite_whole {s : State} {ts : List Turn} {xs : List Nat} (hphase : s.framer.phase = phTxWrite)
    (hoff : s.framer.txOff = 0) (hturns : s.env.turns = .agent .framer :: ts)
    (hanswers : s.env.txIn = s.params.pktLen :: xs) :
    step s = .next
      { s with
        out := s.out ++ [.txBytes (memRead s.pkt 0 s.params.pktLen)]
        framer := { s.framer with txOff := s.params.pktLen, phase := phClear }
        env := { s.env with turns := ts, txIn := xs } } := by
  have hpos : s.params.pktLen ≠ 0 := Nat.succ_ne_zero _
  have hwrite := step_txWrite hphase (by rw [hoff, Nat.zero_add]) hturns hanswers
  rw [if_neg hpos, drawTx_afterTurn hanswers] at hwrite
  rw [hwrite]
  simp only [afterTurn, hturns, txAccept, emit, hoff, Nat.zero_add, if_true]

/-- SEAL leaves the packet's length field (43_framer R124). -/
theorem payloadLen_cyclePkt {p : Params} (hp : p.ok) {c : Capture} {lost : Bool} {tel : PerChannel Half} {m : Memory}
    (hwf : m.wf = true) : payloadLen (cyclePkt p c lost tel m) = c.len.toNat := by
  have hspan := span_eq_of_ok hp
  have hbefore : offLen + 2 ≤ p.span := by
    simp only [offLen]
    omega
  rw [payloadLen, cyclePkt, sealPkt, readHalf_memWrite_disjoint (wf_packCapture hwf) (.inl hbefore), offLen,
    readHalf_packCapture_len hwf]

/-- From TX_DECIDE a packet that is not suppressed is sent whole (43_framer R125, R126). -/
theorem runSteps_txDecide {s : State} {ts : List Turn} {xs : List Nat} (hphase : s.framer.phase = phTxDecide)
    (hsend : payloadLen s.pkt ≠ 0 ∨ s.cfg.suppress = false)
    (hturns : s.env.turns = .agent .framer :: .agent .framer :: ts) (hanswers : s.env.txIn = s.params.pktLen :: xs) :
    runSteps 2 s = .next
      { s with
        framer := { s.framer with txOff := s.params.pktLen, stall := 0#32, phase := phClear }
        out := s.out ++ [.txBytes (memRead s.pkt 0 s.params.pktLen)]
        env := { s.env with turns := ts, txIn := xs } } := by
  have hdecide := (step_framer_listed (i := .phaseTxDecide) hturns (by rw [hphase]; rfl)).trans
    (exec_phaseTxDecide_of_send (s := { s with env := { s.env with turns := .agent .framer :: ts } }) hsend)
  refine (runSteps_succ hdecide 1).trans (runSteps_succ (step_txWrite_whole rfl rfl rfl ?_) 0)
  exact hanswers

/-- The state of a cycle in TX_DECIDE, after a take cycle took a capture and SEAL wrote the trailer (43_framer R123,
R124). -/
def captureSealed (c : Capture) (ts : List Turn) (s : State) : State :=
  { s with
    ring := { (ringTakeOp s.ring).2 with lostPending := false }
    pkt := cyclePkt s.params c s.ring.lostPending s.telem.tel s.pkt
    crc := crcFold 0xFFFFFFFF#32
      (memRead (packCapture s.params c s.ring.lostPending s.telem.tel s.pkt) 0 s.params.span)
    framer := { s.framer with phase := phTxDecide }
    env := { s.env with turns := ts } }

/-- A take cycle with a capture pending assembles and seals it (43_framer R123, R124). -/
theorem runSteps_assemble {s : State} {c : Capture} {ts : List Turn} (hphase : s.framer.phase = phAssemble)
    (hcyc : s.framer.cyc < s.params.takeCycles) (htake : (ringTakeOp s.ring).1 = some c)
    (hturns : s.env.turns = .agent .framer :: .agent .framer :: ts) :
    runSteps 2 s = .next (captureSealed c ts s) := by
  have hassemble := (step_framer_listed (i := .phaseAssemble) hturns (by rw [hphase]; rfl)).trans
    (exec_phaseAssemble_of_capture hcyc htake)
  exact (runSteps_succ hassemble 1).trans
    (runSteps_succ ((step_framer_listed (i := .phaseSeal) rfl rfl).trans (exec_phaseSeal _)) 0)

/-- A take cycle's packet is assembled, sealed and sent whole (43_framer R123 to R126). -/
theorem runSteps_send {s : State} {c : Capture} {ts : List Turn} {xs : List Nat} (hp : s.params.ok)
    (hwf : s.pkt.wf = true) (hphase : s.framer.phase = phAssemble) (hcyc : s.framer.cyc < s.params.takeCycles)
    (htake : (ringTakeOp s.ring).1 = some c) (hlen : c.len ≠ 0#16 ∨ s.cfg.suppress = false)
    (hturns : s.env.turns = List.replicate 4 (.agent .framer) ++ ts) (hanswers : s.env.txIn = s.params.pktLen :: xs) :
    runSteps 4 s = .next
      { captureSealed c ts s with
        framer := { s.framer with txOff := s.params.pktLen, stall := 0#32, phase := phClear }
        out := s.out ++
          [.txBytes (memRead (cyclePkt s.params c s.ring.lostPending s.telem.tel s.pkt) 0 s.params.pktLen)]
        env := { s.env with turns := ts, txIn := xs } } := by
  have hsend : payloadLen (cyclePkt s.params c s.ring.lostPending s.telem.tel s.pkt) ≠ 0 ∨ s.cfg.suppress = false := by
    rw [payloadLen_cyclePkt hp hwf]
    exact hlen.imp_left fun hne hzero => hne (BitVec.eq_of_toNat_eq hzero)
  rw [runSteps_add (runSteps_assemble hphase hcyc htake hturns) 2]
  exact runSteps_txDecide (s := captureSealed c (.agent .framer :: .agent .framer :: ts) s) rfl hsend rfl hanswers

/-! ### The packet as the host receives it -/

section Packet
variable {p : Params} {m : Memory} {c : Capture} {lost : Bool} {tel : PerChannel Half}

/-- The fields of the packet a cycle sends, each where 20_memory R46 puts it. -/
structure PacketCarries (p : Params) (seq : Word) (c : Capture) (lost : Bool) (tel : PerChannel Half)
    (bs : List Byte) : Prop where
  sequence : bs.take 4 = le32 seq
  telemetry : (bs.drop 4).take 10 = telBytes tel
  typeword : (bs.drop 14).take 2 = le16 (Machine.typeword p.protoVersion c.line lost c.part c.ty)
  length : (bs.drop 16).take 2 = le16 c.len
  reserved : (bs.drop 18).take 2 = [0#8, 0#8]
  payload : (bs.drop 20).take p.payloadMax = c.bytes ++ zeros (p.payloadMax - c.bytes.length)
  trailer : bs.drop p.span = le32 (crc32 (bs.take p.span))

/-- A field of the packet within the span is what ASSEMBLE left there (43_framer R124). -/
theorem cyclePkt_field (hwf : m.wf = true) {off n : Nat} (h : off + n ≤ p.span) :
    ((memRead (cyclePkt p c lost tel m) 0 p.pktLen).drop off).take n = memRead (packCapture p c lost tel m) off n := by
  have hpkt := pktLen_eq p
  rw [← memRead_eq_slice _ (by omega), cyclePkt, memRead_sealPkt (wf_packCapture hwf) h]

/-- The trailer is the CRC of the span before it (43_framer R124). -/
theorem cyclePkt_trailer (hwf : m.wf = true) :
    (memRead (cyclePkt p c lost tel m) 0 p.pktLen).drop p.span
      = le32 (crc32 ((memRead (cyclePkt p c lost tel m) 0 p.pktLen).take p.span)) := by
  have hsealed : pktSealed p (cyclePkt p c lost tel m) := pktSealed_memWrite_trailer (wf_packCapture hwf)
  rw [pktLen_eq, memRead_add, List.drop_left' (memRead_length ..), List.take_left' (memRead_length ..), Nat.zero_add]
  exact hsealed

/-- The packet of a cycle, whose sequence field and reserved bytes stood in the buffer before ASSEMBLE. -/
theorem packetCarries_cyclePkt (hp : p.ok) (hwf : m.wf = true) (hc : c.bytes.length ≤ p.payloadMax) {seq : Word}
    (hseq : memRead m 0 4 = le32 seq) (hreserved : memRead m 18 2 = [0#8, 0#8]) :
    PacketCarries p seq c lost tel (memRead (cyclePkt p c lost tel m) 0 p.pktLen) := by
  have hspan := span_eq_of_ok hp
  have hheader := packCapture_header (lost := lost) (tel := tel) hwf hc
  exact {
    sequence := by
      rw [← List.drop_zero (l := memRead _ 0 _), cyclePkt_field hwf (by omega), ← hseq]
      exact memRead_congr fun j hj => hheader.sequence (0 + j) (by omega)
    telemetry := by rw [cyclePkt_field hwf (by omega), hheader.telemetry]
    typeword := by rw [cyclePkt_field hwf (by omega), memRead_two_eq_le16, hheader.typeword]
    length := by rw [cyclePkt_field hwf (by omega), memRead_two_eq_le16, readHalf_packCapture_len hwf]
    reserved := by
      rw [cyclePkt_field hwf (by omega), ← hreserved]
      exact memRead_congr fun j hj => readByte_packCapture_of_outside hwf hc (by omega)
    payload := by rw [cyclePkt_field hwf (by omega), memRead_packCapture_payload hwf hc]
    trailer := cyclePkt_trailer hwf }

end Packet

/-- Settles O59: CYCLE_START leads to ASSEMBLE (`runSteps_toAssemble`), from where the packet is sent (`runSteps_send`),
and the host receives its fields (`packetCarries_cyclePkt`). -/
theorem cycleSendsTheOldestCapture : Obligations.CycleSendsTheOldestCapture := by
  intro s c cs ts xs hinv hphase hrun hcyc hqueue hlen hanswers hturns htx
  obtain ⟨-, hsome, hrest⟩ := ringTakeOp_of_unread_eq_cons hinv.ring hqueue
  obtain ⟨hbytes, hmax⟩ := ringTakeOp_capture_fits hinv.ring hsome
  obtain ⟨-, -, hres0, hres1, -, -⟩ := hinv.pkt
  have hsteps : (if s.framer.cyc = 0 then 6 else 5) = (if s.framer.cyc = 0 then 2 else 1) + 4 := by split <;> rfl
  rw [hsteps, List.replicate_add, List.append_assoc] at hturns
  obtain ⟨telem, env, hnumbered, henvTurns, henvTx⟩ :=
    runSteps_toAssemble hphase hrun (fun h => exists_answers (hanswers h)) hturns
  have hwf : (cycleNumbered phAssemble telem env s).pkt.wf = true := wf_memWrite hinv.pkt_wf _ _
  have hseq : memRead (cycleNumbered phAssemble telem env s).pkt 0 4 = le32 (s.framer.seq + 1#32) :=
    memRead_memWrite hinv.pkt_wf offSeq (le32 _)
  have hreserved : memRead (cycleNumbered phAssemble telem env s).pkt 18 2 = [0#8, 0#8] := by
    rw [cycleNumbered, memRead_memWrite_disjoint hinv.pkt_wf _ _ _ _ (.inr (by simp [offSeq]))]
    exact congrArg₂ (fun x y => [x, y]) hres0 hres1
  have hsent := runSteps_send (s := cycleNumbered phAssemble telem env s) hinv.params hwf rfl hcyc hsome hlen henvTurns
    (henvTx.trans htx)
  have hpacket := packetCarries_cyclePkt (lost := s.ring.lostPending) (tel := telem.tel) hinv.params hwf
    (hbytes.trans_le hmax) hseq hreserved
  have hcycle := (runSteps_add hnumbered 4).trans hsent
  rw [← hsteps] at hcycle
  exact ⟨_, _, hcycle, rfl, memRead_length .., hpacket.sequence, hpacket.telemetry, hpacket.typeword, hpacket.length,
    hpacket.reserved, hpacket.payload, hpacket.trailer, hrest, rfl, rfl, rfl, rfl⟩

end Sys2Proof.Machine
end

/-! ## The Control Surface: words on the control port -/

section
namespace Sys2Proof.Machine

/-! ### Reserved bits -/

/-- How many low operand bits the format of a control command has; the bits above are reserved (30_encoding R66). An
operation of another port has no such format and counts as 0. -/
def controlOperandBits : Op → Nat
  | .ctlStart | .ctlSetOutmode | .ctlSetAutostop => 1
  | .ctlSetLine => 2
  | .ctlSetRole => 3
  | .ctlSetIdle => 24
  | .ctlRead => 8
  | _ => 0

theorem controlOperandBits_le (op : Op) : controlOperandBits op ≤ 24 := by cases op <;> decide

/-- The reserved bits in the opcode map are those above the format's operand bits. -/
theorem control_reserved_eq {op : Op} (hport : (rowOfOp op).port = .control) :
    (rowOfOp op).reserved = fieldMask (8 + controlOperandBits op) (24 - controlOperandBits op) := by
  cases op with
  | ctlStart | ctlReset | ctlSetLine | ctlSetRole | ctlSetOutmode | ctlSetAutostop | ctlSetIdle | ctlRead => rfl
  | _ => cases hport

/-- A reserved bit of a control command is 1 exactly when its 24-bit operand needs more bits than the format has. -/
theorem controlReservedSet_opcode {op : Op} (hport : (rowOfOp op).port = .control) {h : Nat} (hlt : h < 2 ^ 24) :
    controlReservedSet (rowOfOp op).opcode.toNat h ↔ 2 ^ controlOperandBits op ≤ h := by
  cases op with
  | ctlSetIdle => simpa [controlReservedSet, rowOfOp, opTable, controlOperandBits] using hlt
  | ctlStart | ctlReset | ctlSetLine | ctlSetRole | ctlSetOutmode | ctlSetAutostop | ctlRead =>
    simp [controlReservedSet, rowOfOp, opTable, controlOperandBits]
  | _ => cases hport

/-- A reserved bit of a control word, in numbers and as the mask of its row (30_encoding R66). -/
theorem controlReservedSet_iff {op : Op} {w : Word} (hport : (rowOfOp op).port = .control)
    (hop : opcodeOf w = (rowOfOp op).opcode) :
    controlReservedSet (opcodeNat w) (operandNat w) ↔ w &&& (rowOfOp op).reserved ≠ 0#32 := by
  rw [opcodeOf_eq_iff.1 hop, controlReservedSet_opcode hport (operandNat_lt w), control_reserved_eq hport, Ne,
    and_highMask_eq_zero_iff (controlOperandBits_le op), Nat.not_lt]

/-! ### Operands -/

theorem roleOfBit_eq (b : Bool) : roleOfBit b = if b then .source else .sink := by cases b <;> rfl

/-- Line selection of a two-bit number (30_encoding R67). -/
theorem lineSelOfBits_ofNat {h : Nat} (hlt : h < 4) :
    lineSelOfBits (BitVec.ofNat 2 h) = if h = 0 then .none else if h = 1 then .a else if h = 2 then .b else .both := by
  interval_cases h <;> rfl

/-- The role and the pull strength of a CTL_SET_ROLE word as numbers (30_encoding R66, R67). -/
theorem operands_ctlSetRole (w : Word) (d : List Byte) :
    operands .ctlSetRole w d =
      .ctlSetRole (if operandNat w % 2 = 1 then .source else .sink) (BitVec.ofNat 2 (operandNat w / 2)) := by
  rw [operands, getLsbD_operandNat w 0, extractLsb'_eq_ofNat w 1, roleOfBit_eq]
  simp only [Nat.pow_zero, Nat.pow_one, Nat.div_one, beq_iff_eq]

/-- A word gives a sink a pull strength exactly when its numbers say so (30_encoding R66). -/
theorem sinkWithPull_operands_iff {op : Op} {w : Word} (hop : opcodeOf w = (rowOfOp op).opcode) (d : List Byte) :
    sinkWithPull (operands op w d) = true ↔ controlSinkWithPull (opcodeNat w) (operandNat w) := by
  rw [opcodeOf_eq_iff.1 hop]
  by_cases hrole : op = .ctlSetRole
  · subst hrole
    have hpull : BitVec.ofNat 2 (operandNat w / 2) ≠ 0#2 ↔ operandNat w / 2 % 4 ≠ 0 := by
      rw [Ne, ← BitVec.toNat_inj, BitVec.toNat_ofNat]
      rfl
    rw [operands_ctlSetRole]
    rcases Nat.mod_two_eq_zero_or_one (operandNat w) with hsink | hsource
    · simp [hsink, sinkWithPull, hpull, controlSinkWithPull, rowOfOp, opTable]
    · simp [hsource, sinkWithPull, controlSinkWithPull]
  · have hopcode : (rowOfOp op).opcode.toNat ≠ 4 := by revert hrole; cases op <;> decide
    rw [sinkWithPull_operands hrole]
    simp [controlSinkWithPull, hopcode]

/-- The command of a control word without a reserved bit, field by field (30_encoding R67). -/
theorem operands_eq_commandOf {op : Op} {w : Word} (hport : (rowOfOp op).port = .control)
    (hop : opcodeOf w = (rowOfOp op).opcode) (hres : ¬ controlReservedSet (opcodeNat w) (operandNat w))
    (d : List Byte) : operands op w d = commandOf (opcodeNat w) (operandNat w) := by
  have hbit : w.getLsbD 8 = (operandNat w % 2 == 1) := by
    simpa only [Nat.pow_zero, Nat.div_one] using getLsbD_operandNat w 0
  have hfield : ∀ len, w.extractLsb' 8 len = BitVec.ofNat len (operandNat w) := fun len => by
    simpa only [Nat.pow_zero, Nat.div_one] using extractLsb'_eq_ofNat w 0 len
  rw [opcodeOf_eq_iff.1 hop] at hres ⊢
  rw [controlReservedSet_opcode hport (operandNat_lt w), Nat.not_le] at hres
  cases op with
  | ctlStart => exact congrArg Instr.ctlStart hbit
  | ctlReset => rfl
  | ctlSetLine => exact congrArg Instr.ctlSetLine ((congrArg lineSelOfBits (hfield 2)).trans (lineSelOfBits_ofNat hres))
  | ctlSetRole => exact operands_ctlSetRole w d
  | ctlSetOutmode => exact congrArg Instr.ctlSetOutmode hbit
  | ctlSetAutostop => exact congrArg Instr.ctlSetAutostop hbit
  | ctlSetIdle => exact congrArg Instr.ctlSetIdle (hfield 24)
  | ctlRead => exact congrArg Instr.ctlRead (hfield 8)
  | _ => cases hport

/-! ### CTL_SET_ROLE and the commands with an event -/

/-- A command that emits one event before its answer. -/
theorem completeOk_emit (e : Event) (s : State) :
    completeOk (emit e s) = { s with errCode := 0#8, out := s.out ++ [e, .ctlResp 0#8 0#32] } := by
  simp only [completeOk, complete, emit, codeOk, List.append_assoc, List.cons_append, List.nil_append]

/-- A source, or a sink without a pull strength, is forwarded (44_control R154). -/
theorem exec_ctlSetRole_of_legal {role : Role} {pull : BitVec 2} (h : role = .source ∨ pull = 0#2) (s : State) :
    exec (.ctlSetRole role pull) s = .next
      { s with
        cfg := { s.cfg with role := role, pull := pull }, errCode := 0#8
        out := s.out ++ [.selectRole role pull, .ctlResp 0#8 0#32] } := by
  have hlegal : ¬ (role = .sink ∧ pull ≠ 0#2) := by
    rintro ⟨rfl, hpull⟩
    exact h.elim nofun hpull
  exact (if_neg hlegal).trans (congrArg Host.Outcome.next (completeOk_emit _ _))

/-- Settles O29: the guard of the meaning itself (44_control R154). -/
theorem sinkWithPullCalledDirectlyIsRejected : Obligations.SinkWithPullCalledDirectlyIsRejected :=
  fun _ _ hpull => if_pos ⟨rfl, hpull⟩

/-! ### How a command ends -/

/-- A command ended as 44_control R150 says: its code is in the status register and in the last event, a CtlResp, whose
value is 0 unless the command is CTL_READ. -/
def Completes (i : Instr) (t : State) : Prop :=
  ∃ value, t.out.getLast? = some (.ctlResp t.errCode value) ∧ ((∀ idx, i ≠ .ctlRead idx) → value = 0#32)

theorem completes_complete (i : Instr) (code : BitVec 8) (s : State) : Completes i (complete code 0#32 s) :=
  ⟨0#32, List.getLast?_concat, fun _ => rfl⟩

/-- Every command of the host completes (44_control R150). -/
theorem exec_completes {i : Instr} (hi : issuer i = .host) (s : State) : ∃ t, exec i s = .next t ∧ Completes i t := by
  cases i with
  | ctlStart run => cases run <;> exact ⟨_, rfl, completes_complete _ _ _⟩
  | ctlReset => exact ⟨_, rfl, completes_complete _ _ _⟩
  | ctlSetLine sel => exact ⟨_, rfl, completes_complete _ _ _⟩
  | ctlSetRole role pull =>
    simp only [exec, execCtlSetRole]
    split
    · exact ⟨_, rfl, completes_complete _ _ _⟩
    · exact ⟨_, rfl, completes_complete _ _ _⟩
  | ctlSetOutmode onCapture => exact ⟨_, rfl, completes_complete _ _ _⟩
  | ctlSetAutostop on => exact ⟨_, rfl, completes_complete _ _ _⟩
  | ctlSetIdle us => exact ⟨_, rfl, completes_complete _ _ _⟩
  | ctlRead idx =>
    simp only [exec, execCtlRead]
    split
    · next v _ => exact ⟨_, rfl, v, List.getLast?_concat, fun hne => absurd rfl (hne idx)⟩
    · exact ⟨_, rfl, completes_complete _ _ _⟩
  | _ => cases hi

/-! ### Every word -/

/-- A control word that decodes runs its command (44_control R150). -/
theorem step_control_ok {s : State} {w : Word} {i : Instr} (hturn : nextTurn s = .agent (.control w))
    (h : decodeAt .control w [] = .ok i) : step s = exec i (afterTurn s) := by
  simp only [step_eq, hturn, h]

/-- A control word that does not decode is answered with its code (60_exceptions R179). -/
theorem step_control_error {s : State} {w : Word} {e : DecodeError} (hturn : nextTurn s = .agent (.control w))
    (h : decodeAt .control w [] = .error e) : step s = .next (answered (afterTurn s) (rejectCode e) 0#32) := by
  simp only [step_eq, hturn, h]
  rfl

/-- A control word that decodes names a command of the host, and CTL_READ only with the opcode 8 (30_encoding R65,
R69). -/
theorem host_of_decodeAt_control {w : Word} {d : List Byte} {i : Instr} (h : decodeAt .control w d = .ok i) :
    issuer i = .host ∧ (opcodeNat w ≠ 8 → ∀ idx, i ≠ .ctlRead idx) := by
  obtain ⟨op, hop, hport, -, rfl, -⟩ := decodeAt_eq_ok_iff.1 h
  rw [opcodeOf_eq_iff.1 hop]
  cases op with
  | ctlRead => exact ⟨rfl, fun hne => absurd rfl hne⟩
  | ctlStart | ctlReset | ctlSetLine | ctlSetRole | ctlSetOutmode | ctlSetAutostop | ctlSetIdle =>
    exact ⟨rfl, fun _ _ => nofun⟩
  | _ => cases hport

/-- Settles O14: the decoder's three answers (`decodeAt_of_opcode`) are told apart by the word's numbers, and a command
completes (`exec_completes`) as a rejection does. -/
theorem controlPortHandlesEveryWord : Obligations.ControlPortHandlesEveryWord := by
  intro s w hturn
  refine ⟨fun hacc => step_control_error hturn ((opcodeMapIsExact .control w []).2 hacc), fun hacc hbad => ?_,
    fun hacc hgood => ?_, ?_⟩
  · obtain ⟨op, hop, hport⟩ := opcodeAccepted_iff.1 hacc
    rw [controlReservedSet_iff hport hop, ← sinkWithPull_operands_iff hop []] at hbad
    refine step_control_error (e := .reservedField) hturn ?_
    rw [decodeAt_of_opcode hop, if_neg (not_not.2 hport)]
    split_ifs with hres hsink
    · rfl
    · rfl
    · exact absurd hbad (not_or.2 ⟨hres, hsink⟩)
  · obtain ⟨op, hop, hport⟩ := opcodeAccepted_iff.1 hacc
    obtain ⟨hres, hsink⟩ := not_or.1 hgood
    rw [← operands_eq_commandOf hport hop hres []]
    rw [controlReservedSet_iff hport hop, not_not] at hres
    rw [← sinkWithPull_operands_iff hop [], Bool.not_eq_true] at hsink
    exact step_control_ok hturn (decodeAt_eq_ok_iff.2 ⟨op, hop, hport, hres, rfl, hsink⟩)
  · cases hdec : decodeAt .control w [] with
    | error e => exact ⟨_, _, 0#32, step_control_error hturn hdec, rfl, List.getLast?_concat, fun _ => rfl⟩
    | ok i =>
      obtain ⟨hhost, hread⟩ := host_of_decodeAt_control hdec
      obtain ⟨t, hexec, value, hlast, hzero⟩ := exec_completes hhost (afterTurn s)
      exact ⟨t, _, value, (step_control_ok hturn hdec).trans hexec, rfl, hlast, fun hne => hzero (hread hne)⟩

end Sys2Proof.Machine
end

/-! ## The Control Surface: the commands' next states -/

section
namespace Sys2Proof.Machine

/-- Every wider operand of a control command is rejected (44_control R150, "Errors" of R151 to R158). -/
theorem rejectsOperandFrom_controlOperandBits {op : Op} (hport : (rowOfOp op).port = .control) :
    rejectsOperandFrom (rowOfOp op).opcode.toNat (2 ^ controlOperandBits op) :=
  rejectsOperandFrom_of_reserved hport (controlOperandBits_le op) (control_reserved_eq hport)

/-- The opcode byte of an encoded word as a number (30_encoding R64). -/
theorem opcodeNat_wordOf (operand : BitVec 24) (opcode : BitVec 8) :
    opcodeNat (wordOf operand opcode) = opcode.toNat :=
  opcodeOf_eq_iff.1 (opcodeOf_wordOf operand opcode)

/-- Settles O25: each form is its meaning, start(true) with its two events by `completeOk_emit`. -/
theorem startRestartsNumberingStopOnlyClearsRun : Obligations.StartRestartsNumberingStopOnlyClearsRun := by
  exact ⟨fun run => congrArg some (opcodeNat_wordOf _ _), rejectsOperandFrom_controlOperandBits (op := .ctlStart) rfl,
    fun s => congrArg Host.Outcome.next (completeOk_emit _ _), fun s => rfl⟩

/-- Settles O27: each setter is its meaning, CTL_SET_LINE with its two events by `completeOk_emit`. -/
theorem settersWriteOneField : Obligations.SettersWriteOneField := by
  have hnumber : ∀ (operand : BitVec 24) (opcode : BitVec 8),
      some (opcodeNat (wordOf operand opcode)) = some opcode.toNat :=
    fun operand opcode => congrArg some (opcodeNat_wordOf operand opcode)
  exact ⟨fun sel b us => ⟨hnumber _ _, hnumber _ _, hnumber _ _, hnumber _ _⟩,
    rejectsOperandFrom_controlOperandBits (op := .ctlSetLine) rfl,
    rejectsOperandFrom_controlOperandBits (op := .ctlSetOutmode) rfl,
    rejectsOperandFrom_controlOperandBits (op := .ctlSetAutostop) rfl,
    fun _ _ => congrArg Host.Outcome.next (completeOk_emit _ _), fun _ _ => rfl, fun _ _ => rfl, fun _ _ => rfl⟩

/-- Settles O28: a word of a sink with a pull strength is one that `controlPortHandlesEveryWord` rejects, and every
other role is forwarded. -/
theorem setRoleForwardsOrRejects : Obligations.SetRoleForwardsOrRejects := by
  refine ⟨fun role pull => congrArg some (opcodeNat_wordOf _ _),
    rejectsOperandFrom_controlOperandBits (op := .ctlSetRole) rfl, fun s w hturn hopcode hsink hpull => ?_,
    fun role pull s hlegal => exec_ctlSetRole_of_legal hlegal s⟩
  have hacc : opcodeAccepted .control (opcodeNat w) := by rw [hopcode]; exact ⟨by decide, by decide⟩
  obtain ⟨-, hreserved, -⟩ := controlPortHandlesEveryWord s w hturn
  exact hreserved hacc (.inr ⟨hopcode, hsink, hpull⟩)

end Sys2Proof.Machine
end

/-! ## Words on the capture port -/

section
namespace Sys2Proof.Machine

/-- A capture-port word that decodes runs its operation (00_scope R12). -/
theorem step_capture_ok {s : State} {w : Word} {i : Instr} (hturn : nextTurn s = .agent (.capture w))
    (h : decodeAt .capture w [] = .ok i) : step s = exec i (afterTurn s) := by
  simp only [step_eq, hturn, h]

/-- A capture-port word that does not decode is ignored (60_exceptions R180). -/
theorem step_capture_error {s : State} {w : Word} {e : DecodeError} (hturn : nextTurn s = .agent (.capture w))
    (h : decodeAt .capture w [] = .error e) : step s = .next (afterTurn s) := by
  simp only [step_eq, hturn, h]

/-- Every capture operation reserves the bits [31:16] (30_encoding R66). -/
theorem capture_reserved_eq {op : Op} (hport : (rowOfOp op).port = .capture) :
    (rowOfOp op).reserved = fieldMask (8 + 8) (24 - 8) := by
  cases op with
  | capByte | evRxComplete | evRxError => rfl
  | _ => cases hport

/-- A capture-port word has its reserved bits 0 exactly when its operand is one byte (30_encoding R66). -/
theorem capture_reserved_eq_zero_iff {op : Op} {w : Word} (hport : (rowOfOp op).port = .capture) :
    w &&& (rowOfOp op).reserved = 0#32 ↔ operandNat w < 256 := by
  rw [capture_reserved_eq hport]
  exact and_highMask_eq_zero_iff (k := 8) (by decide) w

/-- The operation of a capture-port word, with the byte of its bits [15:8] (30_encoding R66, R67). -/
theorem operands_eq_captureOf {op : Op} {w : Word} (hport : (rowOfOp op).port = .capture)
    (hop : opcodeOf w = (rowOfOp op).opcode) (d : List Byte) :
    operands op w d = captureOf (opcodeNat w) (operandNat w) := by
  have hbyte : w.extractLsb' 8 8 = BitVec.ofNat 8 (operandNat w) := by
    simpa only [Nat.pow_zero, Nat.div_one] using extractLsb'_eq_ofNat w 0 8
  rw [opcodeOf_eq_iff.1 hop]
  cases op with
  | capByte => exact congrArg Instr.capByte hbyte
  | evRxComplete => exact congrArg Instr.evRxComplete hbyte
  | evRxError => exact congrArg Instr.evRxError hbyte
  | _ => cases hport

/-- Settles O15: a word is of no capture operation, has a reserved bit set, or decodes; the decoder rejects the first
two, which the port ignores. -/
theorem capturePortIgnoresOtherWords : Obligations.CapturePortIgnoresOtherWords := by
  intro s w hturn
  by_cases hacc : opcodeAccepted .capture (opcodeNat w)
  · obtain ⟨op, hop, hport⟩ := opcodeAccepted_iff.1 hacc
    have hzero := capture_reserved_eq_zero_iff (w := w) hport
    refine ⟨fun hbad => ?_, fun _ hbyte => ?_⟩
    · have hwide : ¬ operandNat w < 256 := Nat.not_lt.2 (hbad.resolve_left (not_not.2 hacc))
      have hdec := decodeAt_of_reserved hop (mt hzero.1 hwide) []
      exact step_capture_error hturn (hport ▸ hdec)
    · have hsink : sinkWithPull (operands op w []) = false :=
        sinkWithPull_operands (by rintro rfl; cases hport) w []
      rw [← operands_eq_captureOf hport hop []]
      exact step_capture_ok hturn (decodeAt_eq_ok_iff.2 ⟨op, hop, hport, hzero.2 hbyte, rfl, hsink⟩)
  · exact ⟨fun _ => step_capture_error hturn ((opcodeMapIsExact .capture w []).2 hacc), fun h => absurd h hacc⟩

/-- No operation of the capture hardware clears the wake latch (42_producer R101). -/
theorem exec_keeps_wake {i : Instr} (hi : issuer i = .captureHardware) (s : State) :
    OnNext (fun t => s.framer.wake = true → t.framer.wake = true) (exec i s) := by
  have hevent : ∀ ty part signal,
      OnNext (fun t => s.framer.wake = true → t.framer.wake = true) (producerEvent ty part signal s) :=
    fun _ _ _ => producerEvent_onNext fun _ hwake => Bool.or_eq_true_iff.2 (.inl hwake)
  cases i with
  | capByte b =>
    simp only [exec, execCapByte]
    split <;> exact onNext_next.2 id
  | evRxComplete ty => exact hevent ty false true
  | evRxError ty => exact hevent ty true false
  | _ => cases hi

/-- Settles O24: an ignored word changes nothing but the turns, and an operation of the capture hardware keeps to its
frame (`exec_frame`) and to the wake latch (`exec_keeps_wake`). -/
theorem producerPreemptsWithoutTrace : Obligations.ProducerPreemptsWithoutTrace := by
  intro s t w hturn hstep
  cases hdec : decodeAt .capture w [] with
  | error e =>
    rw [step_capture_error hturn hdec] at hstep
    cases hstep
    simp
  | ok i =>
    have hwho : issuer i = .captureHardware := issuer_of_decodeAt hdec
    rw [step_capture_ok hturn hdec] at hstep
    have hrest := ((exec_frame i _ t hstep).producer hwho).rest
    have hwake := exec_keeps_wake hwho _ t hstep
    rw [afterTurn_framer] at hwake
    refine ⟨?_, ?_, ?_, ?_, ?_, ?_, hwake⟩ <;> rw [hrest] <;> simp

end Sys2Proof.Machine
end

/-! ## Model faults: which instruction raises which -/

section
namespace Sys2Proof.Machine

/-- A result that is not refused, and whose fault, if it is one, is among those given. -/
def FaultsIn (F : Fault → Prop) : Result → Prop
  | .next _ => True
  | .fault f => F f
  | .refused _ => False

theorem faultsIn_of_next {F : Fault → Prop} {r : Result} {t : State} (h : r = .next t) : FaultsIn F r := by
  rw [h]
  trivial

theorem FaultsIn.imp {F G : Fault → Prop} {r : Result} (hr : FaultsIn F r) (h : ∀ f, F f → G f) : FaultsIn G r := by
  cases r with
  | next t => trivial
  | fault f => exact h f hr
  | refused r => exact hr

/-- What an instruction raises each fault on (60_exceptions R181). The two capture events put what the capture buffer
holds, so that without the invariant they can raise the fault of an over-long put. -/
def Raises (i : Instr) (s : State) : Fault → Prop
  | .badInternalOp =>
    issuer i = .ownUnit ∨ (issuer i = .captureHardware ∧ s.params.payloadMax < s.cap.len.toNat)
  | .transportOverrun => i = .phaseTxWrite ∧ offered s < txAnswer s
  | .badMeasurement => i = .phaseTelem ∧ ∃ j, j < 5 ∧ measAnswer s j = .outOfContract
  | .badPhase => False

/-! ### TELEM and its answers -/

/-- TELEM draws five answers within the contract exactly when it can read them (43_framer R122). -/
theorem withinContract_drawChannels_iff {s : State} {v : PerChannel (Option Half)} :
    withinContract (drawChannels s).1 = some v ↔ Answers v s := by
  rw [drawChannels_answers]
  exact withinContract_eq_some

theorem Answers.within {v : PerChannel (Option Half)} {s : State} (h : Answers v s) {j : Nat} (hj : j < 5) :
    measAnswer s j ≠ .outOfContract := by
  obtain ⟨h0, h1, h2, h3, h4⟩ := h
  interval_cases j
  · rw [h0]; exact nofun
  · rw [h1]; exact nofun
  · rw [h2]; exact nofun
  · rw [h3]; exact nofun
  · rw [h4]; exact nofun

/-- An answer out of contract is the fault BadMeasurement (60_exceptions R181). -/
theorem exec_phaseTelem_of_outOfContract {s : State} {j : Nat} (hj : j < 5) (h : measAnswer s j = .outOfContract) :
    exec .phaseTelem s = .fault .badMeasurement := by
  have hnone : withinContract (drawChannels s).1 = none := Option.eq_none_iff_forall_ne_some.2 fun v hv =>
    (withinContract_drawChannels_iff.1 hv).within hj h
  simp only [exec, execPhaseTelem, hnone]
  rfl

/-- The five answers are within the contract, or one of them is not. -/
theorem answers_or_outOfContract (s : State) :
    (∃ v, Answers v s) ∨ ∃ j, j < 5 ∧ measAnswer s j = .outOfContract := by
  by_cases hall : ∀ j, j < 5 → ∃ v, measAnswer s j = .answer v
  · exact .inl (exists_answers hall)
  · push Not at hall
    obtain ⟨j, hj, hne⟩ := hall
    refine .inr ⟨j, hj, ?_⟩
    cases hans : measAnswer s j with
    | answer v => exact absurd hans (hne v)
    | outOfContract => rfl

/-! ### Every instruction -/

theorem producerEvent_faultsIn {i : Instr} (hi : issuer i = .captureHardware) (ty : BitVec 8) (part signal : Bool)
    (s : State) : FaultsIn (Raises i s) (producerEvent ty part signal s) := by
  rw [producerEvent_eq]
  split
  · next hlong => exact .inr ⟨hi, hlong⟩
  · trivial

theorem putCapture_faultsIn {i : Instr} (hi : issuer i = .ownUnit) (line : Line) (ty : BitVec 8) (part : Bool)
    (data : List Byte) (s : State) : FaultsIn (Raises i s) (putCapture line ty part data s) := by
  rw [putCapture_eq]
  split
  · exact .inl hi
  · trivial

theorem exec_phaseTelem_faultsIn (s : State) : FaultsIn (Raises .phaseTelem s) (exec .phaseTelem s) := by
  rcases answers_or_outOfContract s with ⟨v, hv⟩ | ⟨j, hj, hout⟩
  · obtain ⟨n, hnext⟩ := exec_phaseTelem_of_answers hv
    exact faultsIn_of_next hnext
  · rw [exec_phaseTelem_of_outOfContract hj hout]
    exact ⟨rfl, j, hj, hout⟩

theorem exec_phaseTxWrite_faultsIn (s : State) : FaultsIn (Raises .phaseTxWrite s) (exec .phaseTxWrite s) := by
  rcases Nat.lt_or_ge (offered s) (txAnswer s) with hover | hle
  · rw [exec_phaseTxWrite_of_overrun hover]
    exact ⟨rfl, hover⟩
  · exact faultsIn_of_next (exec_phaseTxWrite_of_le hle)

/-- No command of the host faults (44_control R150). -/
theorem exec_faultsIn_of_host {i : Instr} (hi : issuer i = .host) (s : State) : FaultsIn (Raises i s) (exec i s) := by
  obtain ⟨t, hnext, -⟩ := exec_completes hi s
  exact faultsIn_of_next hnext

/-- No instruction is refused, and each raises only its own faults (60_exceptions R181). -/
theorem exec_faultsIn (i : Instr) (s : State) : FaultsIn (Raises i s) (exec i s) := by
  cases i with
  | capByte b =>
    simp only [exec, execCapByte]
    split <;> trivial
  | evRxComplete ty => exact producerEvent_faultsIn rfl ty false true s
  | evRxError ty => exact producerEvent_faultsIn rfl ty true false s
  | ringPut line ty part data => exact putCapture_faultsIn rfl line ty part data s
  | ringTake | crcInit | crcHash | crcResult => trivial
  | phaseStopped =>
    simp only [exec, execPhaseStopped]
    split <;> trivial
  | phaseCycleStart =>
    simp only [exec, execPhaseCycleStart]
    split <;> trivial
  | phaseTelem => exact exec_phaseTelem_faultsIn s
  | phaseAssemble =>
    simp only [exec, execPhaseAssemble]
    split <;> trivial
  | phaseSeal => trivial
  | phaseTxDecide =>
    simp only [exec, execPhaseTxDecide]
    split <;> trivial
  | phaseTxWrite => exact exec_phaseTxWrite_faultsIn s
  | phaseTxSleep | phaseClear | phaseIdleSleep => trivial
  | _ => exact exec_faultsIn_of_host rfl s

/-! ### Every step -/

/-- What a step raises each fault on (60_exceptions R181). -/
def StepRaises (s : State) : Fault → Prop
  | .badInternalOp => (∃ w d, nextTurn s = .internal w d) ∨ s.params.payloadMax < s.cap.len.toNat
  | .transportOverrun =>
    nextTurn s = .agent .framer ∧ s.framer.phase = 6#4 ∧ s.params.pktLen - s.framer.txOff < txAnswer s
  | .badMeasurement =>
    nextTurn s = .agent .framer ∧ s.framer.phase = 2#4 ∧ ∃ j, j < 5 ∧ measAnswer s j = .outOfContract
  | .badPhase => decodePhase s.framer.phase = none

theorem turnIssuer_eq_framer_iff {u : Turn} : turnIssuer u = .framer ↔ u = .agent .framer := by
  rcases u with (_ | _ | _) | _ <;> simp [turnIssuer]

theorem turnIssuer_eq_ownUnit_iff {u : Turn} : turnIssuer u = .ownUnit ↔ ∃ w d, u = .internal w d := by
  rcases u with (_ | _ | _) | _ <;> simp [turnIssuer]

/-- Taking a turn leaves the measurement port's next answers. -/
theorem measAnswer_afterTurn (s : State) (j : Nat) : measAnswer (afterTurn s) j = measAnswer s j := by
  simp only [measAnswer, afterTurn_measIn, afterTurn_measCount]

theorem offered_afterTurn (s : State) : offered (afterTurn s) = s.params.pktLen - s.framer.txOff := by
  simp only [offered, afterTurn_params, afterTurn_framer]

/-- What the turn's instruction raises is what the step raises: only the framer's turn runs a phase, and it is the one
that the phase register names. -/
theorem stepRaises_of_raises {s : State} {i : Instr} (hwho : issuer i = turnIssuer (nextTurn s))
    (hphase : PhaseIs (afterTurn s) i) (f : Fault) (h : Raises i (afterTurn s) f) : StepRaises s f := by
  have hcode : ∀ c, encode i = .phase c → s.framer.phase = c := fun c hc => by
    rw [← hphase c hc, afterTurn_framer]
  cases f with
  | badInternalOp =>
    rcases h with hunit | ⟨-, hlong⟩
    · exact .inl (turnIssuer_eq_ownUnit_iff.1 (hwho.symm.trans hunit))
    · rw [afterTurn_params, afterTurn_cap] at hlong
      exact .inr hlong
  | transportOverrun =>
    obtain ⟨rfl, hover⟩ := h
    rw [offered_afterTurn, txAnswer_afterTurn] at hover
    exact ⟨turnIssuer_eq_framer_iff.1 hwho.symm, hcode _ rfl, hover⟩
  | badMeasurement =>
    obtain ⟨rfl, j, hj, hout⟩ := h
    rw [measAnswer_afterTurn] at hout
    exact ⟨turnIssuer_eq_framer_iff.1 hwho.symm, hcode _ rfl, j, hj, hout⟩
  | badPhase => exact h.elim

/-- No step is refused, and it faults only on what is listed for it (60_exceptions R181). -/
theorem step_faultsIn (s : State) : FaultsIn (StepRaises s) (step s) := by
  have hexec : ∀ {i}, issuer i = turnIssuer (nextTurn s) → PhaseIs (afterTurn s) i →
      FaultsIn (StepRaises s) (exec i (afterTurn s)) :=
    fun hwho hphase => (exec_faultsIn _ _).imp (stepRaises_of_raises hwho hphase)
  rw [step_eq]
  split
  · next w hturn =>
    split
    · next hi => exact hexec (by rw [hturn, issuer_of_decodeAt hi]; rfl) (phaseIs_of_decodeAt hi _)
    · trivial
  · next w hturn =>
    split
    · next hi => exact hexec (by rw [hturn, issuer_of_decodeAt hi]; rfl) (phaseIs_of_decodeAt hi _)
    · trivial
  · next hturn =>
    split
    · next hi =>
      exact hexec (by rw [hturn, issuer_of_decodePhase hi]; rfl) (phaseIs_of_decodePhase (by rwa [afterTurn_framer]))
    · next hnone => exact hnone
  · next w d hturn =>
    split
    · next hi => exact hexec (by rw [hturn, issuer_of_decodeAt hi]; rfl) (phaseIs_of_decodeAt hi _)
    · exact .inl ⟨w, d, hturn⟩

/-- The invariant's phase codes name phases (30_encoding R76). -/
theorem decodePhase_ne_none {c : BitVec 4} (h : c.toNat ≤ 9) : decodePhase c ≠ none := by
  have hall : ∀ c : BitVec 4, c.toNat ≤ 9 → decodePhase c ≠ none := by decide
  exact hall c h

/-- Settles O17: a fault is one that `step_faultsIn` lists, of which the invariant excludes an over-long capture buffer
and a code of no phase; the converses are the faults of TX_WRITE, TELEM, the internal words (O16) and the phase codes
(O12). -/
theorem faultsAreTheModelFaults : Obligations.FaultsAreTheModelFaults := by
  obtain ⟨-, -, -, hframer, -⟩ := stepRunsDecoded
  refine ⟨fun s f hinv hstep => ?_, fun s hturn hphase hover => ?_, fun s j hturn hphase hj hout => ?_,
    fun s w d hturn hbad => ?_, fun s hturn hcode => ?_, fun s r hstep => ?_⟩
  · have hraised := step_faultsIn s
    rw [hstep] at hraised
    cases f with
    | badInternalOp => exact .inl ⟨rfl, hraised.resolve_right (Nat.not_lt.2 hinv.cap.1)⟩
    | transportOverrun => exact .inr (.inl ⟨rfl, hraised⟩)
    | badMeasurement => exact .inr (.inr ⟨rfl, hraised⟩)
    | badPhase => exact absurd hraised (decodePhase_ne_none hinv.framer.1)
  · rw [hframer s .phaseTxWrite hturn (by rw [hphase]; rfl)]
    rw [← offered_afterTurn, ← txAnswer_afterTurn] at hover
    exact exec_phaseTxWrite_of_overrun hover
  · rw [hframer s .phaseTelem hturn (by rw [hphase]; rfl)]
    exact exec_phaseTelem_of_outOfContract hj ((measAnswer_afterTurn s j).trans hout)
  · obtain ⟨hillegal, hreserved, hlong, -⟩ := internalWordsFaultUnlessLegal s w d hturn
    rcases hbad with hunit | ⟨hacc, hres⟩ | ⟨hput, hdata⟩
    · refine hillegal fun hacc => ?_
      rw [opcodeAccepted] at hacc
      omega
    · exact hreserved hacc hres
    · exact hlong hput hdata
  · obtain ⟨-, -, -, -, -, -, -, -, -, -, hbadPhase⟩ := phaseCodesNamePhases
    exact hbadPhase s hturn hcode
  · have hrefused := step_faultsIn s
    rw [hstep] at hrefused
    exact hrefused

end Sys2Proof.Machine
end

/-! ## The error events and what each records -/

section
namespace Sys2Proof.Machine

variable {s : State}

/-! ### A failed measurement -/

/-- TELEM goes on only with answers within the contract, whose failures are the error bits (43_framer R122). -/
theorem measErr_of_exec_phaseTelem {t : State} (h : exec .phaseTelem s = .next t) :
    ∃ v, Answers v s ∧ t.telem.measErr = measErrOf v := by
  rcases answers_or_outOfContract s with ⟨v, hv⟩ | ⟨j, hj, hout⟩
  · obtain ⟨n, hnext⟩ := exec_phaseTelem_of_answers hv
    cases hnext.symm.trans h
    exact ⟨v, hv, rfl⟩
  · cases (exec_phaseTelem_of_outOfContract hj hout).symm.trans h

theorem isNone_iff_answer_eq_none (v : Option Half) :
    v.isNone = true ↔ MeasAnswer.answer v = .answer none := by
  rw [Option.isNone_iff_eq_none, MeasAnswer.answer.injEq]

/-- The error bit of a channel is set exactly when its read failed (10_state R34). -/
theorem Answers.measErrOf_iff {v : PerChannel (Option Half)} (h : Answers v s) {j : Nat} (hj : j < 5) :
    (measErrOf v).getLsbD j = true ↔ measAnswer s j = .answer none := by
  obtain ⟨h0, h1, h2, h3, h4⟩ := h
  obtain ⟨e0, e1, e2, e3, e4⟩ := measErrOf_bits v
  interval_cases j
  · rw [e0, h0, isNone_iff_answer_eq_none]
  · rw [e1, h1, isNone_iff_answer_eq_none]
  · rw [e2, h2, isNone_iff_answer_eq_none]
  · rw [e3, h3, isNone_iff_answer_eq_none]
  · rw [e4, h4, isNone_iff_answer_eq_none]

/-! ### A put on a full ring, a truncated capture -/

/-- A put whose next write index meets the read index loses a capture and counts it, wherever the indices stand (41_ring
R88). -/
theorem ringPutOp_of_full {g : Ring} (hfull : nextIndex g g.w = g.r) (line : Line) (ty : BitVec 8) (part : Bool)
    (data : List Byte) :
    (ringPutOp line ty part data g).lostPending = true
    ∧ (ringPutOp line ty part data g).drops.toNat = min (g.drops.toNat + 1) (2 ^ 32 - 1) := by
  rw [ringPutOp_eq, if_pos hfull, if_pos hfull, if_pos hfull]
  exact ⟨rfl, satInc_toNat g.drops⟩

/-- The slot that a put wrote has the put's partial bit (41_ring R88). -/
theorem getSlot_ringPutOp_part {g : Ring} (hw : g.w < g.nslots) (line : Line) (ty : BitVec 8) (part : Bool)
    (data : List Byte) : (getSlot (ringPutOp line ty part data g) g.w).part = part := by
  rw [getSlot_ringPutOp hw, if_pos rfl]
  rfl

/-- What a producer event does to the ring is one put (42_producer R101). -/
theorem producerEvent_ring (h : s.cap.len.toNat ≤ s.params.payloadMax) (ty : BitVec 8) (part signal : Bool) :
    ∃ t, producerEvent ty part signal s = .next t
      ∧ t.ring = ringPutOp s.telem.active ty part (memRead s.cap.bytes 0 s.cap.len.toNat) s.ring :=
  ⟨_, (producerEvent_eq ty part signal s).trans (if_neg (Nat.not_lt.2 h)), rfl⟩

/-- A producer event leaves the slot at the write index with its partial bit (42_producer R102, R103). -/
theorem producerEvent_part (hring : ringOk s.params s.ring) (hcap : capOk s.params s.cap) (ty : BitVec 8)
    (part signal : Bool) :
    ∃ t, producerEvent ty part signal s = .next t ∧ (getSlot t.ring s.ring.w).part = part := by
  obtain ⟨-, hw, -, -⟩ := hring
  obtain ⟨hle, -, -⟩ := hcap
  obtain ⟨t, hnext, hput⟩ := producerEvent_ring hle ty part signal
  exact ⟨t, hnext, by rw [hput, getSlot_ringPutOp_part hw]⟩

/-- A RING_PUT and the two capture events each put one capture, if it fits (41_ring R88, 42_producer R101). -/
theorem exec_puts {line : Line} {ty : BitVec 8} {part : Bool} {d : List Byte} {i : Instr}
    (hi : i = .ringPut line ty part d ∨ i = .evRxComplete ty ∨ i = .evRxError ty)
    (hd : d.length ≤ s.params.payloadMax) (hcap : s.cap.len.toNat ≤ s.params.payloadMax) :
    ∃ t, exec i s = .next t ∧ ∃ line' part' d', t.ring = ringPutOp line' ty part' d' s.ring := by
  rcases hi with rfl | rfl | rfl
  · exact ⟨_, exec_ringPut_of_le hd line ty part, line, part, d, rfl⟩
  · obtain ⟨t, hnext, hput⟩ := producerEvent_ring hcap ty false true
    exact ⟨t, hnext, _, _, _, hput⟩
  · obtain ⟨t, hnext, hput⟩ := producerEvent_ring hcap ty true false
    exact ⟨t, hnext, _, _, _, hput⟩

/-! ### A transport stall -/

/-- A stall sets autostopped exactly when it aborts the packet (43_framer R126). -/
theorem txStall_autostopped (s : State) :
    (txStall s).framer.autostopped
      = (s.framer.autostopped
        || (decide (s.params.stallMax < (txStall s).framer.stall.toNat) && s.cfg.autostop)) := by
  rw [txStall_stall]
  by_cases h : s.params.stallMax < (satInc s.framer.stall).toNat ∧ s.cfg.autostop = true
  · obtain ⟨hover, hon⟩ := h
    rw [txStall_of_abort ⟨hover, hon⟩, decide_eq_true hover, hon, Bool.and_true, Bool.or_true]
  · have hfalse : (decide (s.params.stallMax < (satInc s.framer.stall).toNat) && s.cfg.autostop) = false := by
      rwa [← Bool.not_eq_true, Bool.and_eq_true, decide_eq_true_eq]
    rw [txStall_of_sleep h, hfalse, Bool.or_false]

/-- Settles O20: each error event's record is the lemma about its update: `Answers.measErrOf_iff`, `ringPutOp_of_full`,
`producerEvent_part` and `txStall_autostopped`. -/
theorem errorEventsLeaveTheirTrace : Obligations.ErrorEventsLeaveTheirTrace := by
  refine ⟨rfl, fun s t j hj hnext => ?_, fun line ty part d i s hi hd hcap hfull => ?_, fun ty s hring hcap => ?_,
    fun s hzero => ?_⟩
  · obtain ⟨v, hv, hbits⟩ := measErr_of_exec_phaseTelem hnext
    rw [hbits]
    exact hv.measErrOf_iff hj
  · obtain ⟨t, hnext, line', part', d', hput⟩ := exec_puts hi hd hcap
    exact ⟨t, hnext, hput ▸ ringPutOp_of_full hfull line' ty part' d'⟩
  · exact ⟨producerEvent_part hring hcap ty true false, producerEvent_part hring hcap ty false true⟩
  · refine ⟨_, exec_phaseTxWrite_of_zero hzero, ?_, ?_⟩
    · rw [txStall_stall, satInc_toNat, drawTx_framer]
    · rw [txStall_autostopped, drawTx_framer, drawTx_params, drawTx_cfg]

end Sys2Proof.Machine
end
